-- ==== Sys2Proof/Word.lean ====
section
/-!
DEFINITION. The word type of the core and the plainest names over it.
Rules 00_scope.md R5 (`WORD`, `NGPR`), R6, R7.
-/
namespace Sys2Proof

/-- R7: "a 16-bit unsigned integer; all arithmetic wraps modulo 2^16". A register, an address and an
instruction are each one `Word`. -/
abbrev Word := BitVec 16

/-- R200, R241, R242: a character is a byte. -/
abbrev Byte := BitVec 8

/-- R20: the index i of a general register `x[i]`, i in 0..7. -/
abbrev RegIdx := Fin 8

/-- R22: the fixed destination of JSR, JSRR and TRAP. -/
abbrev R7 : RegIdx := 7

/-- R22: the fixed argument and result register of the trap routines. -/
abbrev R0 : RegIdx := 0

end Sys2Proof
end

