-- ==== Sys2Proof/Config.lean ====
section
/-!
DEFINITION. What is fixed for a run or left open by the spec: the launch parameters (00_scope.md R5), the entry
point, the six trap vectors, and the one free value, the answer of `key_available()`.
The DEFAULTS of the open parameters stand in Machine/Defaults.lean.
-/
namespace Sys2Proof.Config

/-- R5: the parameters the spec leaves OPEN and no instruction can change. They are held in `State.params`, so a
statement about every state is a statement about every value of them (notes/assumptions/25.md). -/
structure Params where
  /-- `KBSR_ADDR`, the keyboard-status address (R5, R61; D4). -/
  kbsrAddr : Word
  /-- `KBDR_ADDR`, the keyboard-data address (R5, R61; D4). -/
  kbdrAddr : Word
  /-- `IN_PROMPT`, the bytes IN writes before it reads (R5, R194; D14). -/
  inPrompt : List Byte
  /-- `HALT_NOTICE`, the bytes HALT writes (R5, R196; D14). -/
  haltNotice : List Byte
deriving DecidableEq, Repr

/-- R5, D4: the two keyboard addresses are distinct. -/
def Params.legal (p : Params) : Bool := p.kbsrAddr != p.kbdrAddr

/-- R36: "Entry point address is a fixed constant (0x3000)". -/
def pcStart : Word := 0x3000

/-! R5, R91: the six trap vectors, numbers of the source. -/

def vecGetc : Byte := 0x20
def vecOut : Byte := 0x21
def vecPuts : Byte := 0x22
def vecIn : Byte := 0x23
def vecPutsp : Byte := 0x24
def vecHalt : Byte := 0x25

/-- R91: "Every other value of `trapvect8` ... is an undefined vector". -/
def trapVectors : List Byte := [vecGetc, vecOut, vecPuts, vecIn, vecPutsp, vecHalt]

/-- FREE VALUE (R240, D16, U7): what the host answers at poll number `n` of the keyboard where it has scripted no
answer (`State.keyAnswers` empty). "Its answer is a free input of the step, chosen by the host: the model must admit
both answers". No body: nothing can be proved of it (notes/assumptions/16.md). -/
opaque keyAnswer : Nat → Bool

end Sys2Proof.Config
end

