-- ==== Sys2Proof/Syntax.lean ====
section
/-!
DEFINITION. The instructions: one constructor per row of spec/opcode_table.json, holding exactly the fields the row
uses (30_encoding.md R82, R84, R92). Bits no field uses are dropped by the decoder (R96).
-/
namespace Sys2Proof

/-- The sixteen opcodes of R90 with the two modes of ADD and AND, the two forms of opcode 4, and the trap vectors told
apart, as the 25 rows of R92. Registers are indices 0..7; immediates and offsets are the raw fields, sign-extended
where they are used (R85, R86). -/
inductive Instr where
  /-- R142. `cond` is bits 11:9: bit 2 of it is n, bit 1 z, bit 0 p. -/
  | br (cond : BitVec 3) (offset9 : BitVec 9)
  /-- R123, register mode. -/
  | addReg (dr sr1 sr2 : RegIdx)
  /-- R123, immediate mode. -/
  | addImm (dr sr1 : RegIdx) (imm5 : BitVec 5)
  /-- R160. -/
  | ld (dr : RegIdx) (offset9 : BitVec 9)
  /-- R164. -/
  | st (sr : RegIdx) (offset9 : BitVec 9)
  /-- R145: opcode 4 with bit 11 set. -/
  | jsr (offset11 : BitVec 11)
  /-- R146: opcode 4 with bit 11 clear. -/
  | jsrr (baseR : RegIdx)
  /-- R124, register mode. -/
  | andReg (dr sr1 sr2 : RegIdx)
  /-- R124, immediate mode. -/
  | andImm (dr sr1 : RegIdx) (imm5 : BitVec 5)
  /-- R162. -/
  | ldr (dr baseR : RegIdx) (offset6 : BitVec 6)
  /-- R166. -/
  | str (sr baseR : RegIdx) (offset6 : BitVec 6)
  /-- R221. -/
  | rti
  /-- R125. -/
  | notReg (dr sr : RegIdx)
  /-- R161. -/
  | ldi (dr : RegIdx) (offset9 : BitVec 9)
  /-- R165. -/
  | sti (sr : RegIdx) (offset9 : BitVec 9)
  /-- R144; `baseR = 7` is the idiom RET. -/
  | jmp (baseR : RegIdx)
  /-- R220. -/
  | res
  /-- R163. -/
  | lea (dr : RegIdx) (offset9 : BitVec 9)
  /-- R191, vector 0x20. -/
  | trapGetc
  /-- R192, vector 0x21. -/
  | trapOut
  /-- R193, vector 0x22. -/
  | trapPuts
  /-- R194, vector 0x23. -/
  | trapIn
  /-- R195, vector 0x24. -/
  | trapPutsp
  /-- R196, vector 0x25. -/
  | trapHalt
  /-- R198: `trapvect8` is any of the 250 other values. -/
  | trapUndefined (trapvect8 : BitVec 8)
deriving DecidableEq, Repr

end Sys2Proof
end

