-- ==== Sys2Proof/WellFormed.lean ====
section
/-!
DEFINITION. Which terms of `Instr` stand for an instruction word. Every field is masked to its range by its type
(30_encoding.md R82), so one check is left: the undefined-vector row holds none of the six defined vectors (R91, R92).
-/
namespace Sys2Proof

/-- R92: the row TRAP (undefined vector) "overlaps the six trap rows and is to be tried last", so a term of it with a
vector of 0x20..0x25 stands for no word. -/
def Instr.wf : Instr → Bool
  | .trapUndefined v => !Config.trapVectors.contains v
  | .br _ _ | .addReg _ _ _ | .addImm _ _ _ | .ld _ _ | .st _ _ | .jsr _ | .jsrr _ | .andReg _ _ _ | .andImm _ _ _
  | .ldr _ _ _ | .str _ _ _ | .rti | .notReg _ _ | .ldi _ _ | .sti _ _ | .jmp _ | .res | .lea _ _
  | .trapGetc | .trapOut | .trapPuts | .trapIn | .trapPutsp | .trapHalt => true

end Sys2Proof
end

