-- ==== Sys2Proof/Decode.lean ====
section
/-!
DEFINITION. The Instruction Decoder (30_encoding.md): the opcode map, the field extractions, `decode`, the encoder,
and the match/mask table of R92. Decoding is total: every 16-bit word is an instruction (R92), so no word is rejected.
-/
namespace Sys2Proof

/-! ## The opcode map (R90, decision D1: notes/assumptions/1.md) -/

/-- R90: the sixteen opcodes, by name. -/
inductive Opcode where
  | br | add | ld | st | jsr | and | ldr | str | rti | not | ldi | sti | jmp | res | lea | trap
deriving DecidableEq, Repr

/-- `OPCODE_MAP` (R5, R90; D1, PRESUMED): the opcode numbered 0, 1, ..., 15, in this one table. -/
def opcodeMap : Vector Opcode 16 :=
  #v[.br, .add, .ld, .st, .jsr, .and, .ldr, .str, .rti, .not, .ldi, .sti, .jmp, .res, .lea, .trap]

/-- R81: the opcode a top nibble selects; all sixteen values are assigned. -/
def opcodeOfNibble (b : BitVec 4) : Opcode := opcodeMap[b.toFin]

/-- R90: the number of an opcode, the inverse of `opcodeMap` (Laws/Decode.lean proves it). -/
def nibbleOfOpcode : Opcode → BitVec 4
  | .br => 0 | .add => 1 | .ld => 2 | .st => 3 | .jsr => 4 | .and => 5 | .ldr => 6 | .str => 7
  | .rti => 8 | .not => 9 | .ldi => 10 | .sti => 11 | .jmp => 12 | .res => 13 | .lea => 14 | .trap => 15

/-! ## The fields (R82, R83; decision D2: notes/assumptions/2.md) -/

/-- R81: `opcode = ir[15:12]`. -/
def fieldOpcode (ir : Word) : BitVec 4 := ir.extractLsb' 12 4
/-- R83: `r0 = ir[11:9]`. -/
def fieldR0 (ir : Word) : RegIdx := (ir.extractLsb' 9 3).toFin
/-- R82: `cond = ir[11:9]`. -/
def fieldCond (ir : Word) : BitVec 3 := ir.extractLsb' 9 3
/-- R82: `long = ir[11]`. -/
def fieldLong (ir : Word) : Bool := ir.getLsbD 11
/-- R83: `r1 = ir[8:6]`. -/
def fieldR1 (ir : Word) : RegIdx := (ir.extractLsb' 6 3).toFin
/-- R82: `mode = ir[5]`. -/
def fieldMode (ir : Word) : Bool := ir.getLsbD 5
/-- R82: `imm5 = ir[4:0]`. -/
def fieldImm5 (ir : Word) : BitVec 5 := ir.extractLsb' 0 5
/-- R82: `r2 = ir[2:0]`. -/
def fieldR2 (ir : Word) : RegIdx := (ir.extractLsb' 0 3).toFin
/-- R82: `offset6 = ir[5:0]`. -/
def fieldOffset6 (ir : Word) : BitVec 6 := ir.extractLsb' 0 6
/-- R82: `offset9 = ir[8:0]`. -/
def fieldOffset9 (ir : Word) : BitVec 9 := ir.extractLsb' 0 9
/-- R82: `offset11 = ir[10:0]`. -/
def fieldOffset11 (ir : Word) : BitVec 11 := ir.extractLsb' 0 11
/-- R82: `trapvect8 = ir[7:0]`. -/
def fieldTrapvect8 (ir : Word) : BitVec 8 := ir.extractLsb' 0 8

/-! ## The decoder -/

/-- R91: the row of opcode 15 that `trapvect8` selects; the undefined-vector row is tried last (R92). -/
def decodeTrap (v : BitVec 8) : Instr :=
  if v = Config.vecGetc then .trapGetc
  else if v = Config.vecOut then .trapOut
  else if v = Config.vecPuts then .trapPuts
  else if v = Config.vecIn then .trapIn
  else if v = Config.vecPutsp then .trapPutsp
  else if v = Config.vecHalt then .trapHalt
  else .trapUndefined v

/-- R81, R84, R90: the instruction a word stands for. "the decoder does not validate field combinations" and unused
bits are ignored (R96; D20: notes/assumptions/20.md). -/
def decode (ir : Word) : Instr :=
  match opcodeOfNibble (fieldOpcode ir) with
  | .br => .br (fieldCond ir) (fieldOffset9 ir)
  | .add =>
    if fieldMode ir then .addImm (fieldR0 ir) (fieldR1 ir) (fieldImm5 ir)
    else .addReg (fieldR0 ir) (fieldR1 ir) (fieldR2 ir)
  | .ld => .ld (fieldR0 ir) (fieldOffset9 ir)
  | .st => .st (fieldR0 ir) (fieldOffset9 ir)
  | .jsr => if fieldLong ir then .jsr (fieldOffset11 ir) else .jsrr (fieldR1 ir)
  | .and =>
    if fieldMode ir then .andImm (fieldR0 ir) (fieldR1 ir) (fieldImm5 ir)
    else .andReg (fieldR0 ir) (fieldR1 ir) (fieldR2 ir)
  | .ldr => .ldr (fieldR0 ir) (fieldR1 ir) (fieldOffset6 ir)
  | .str => .str (fieldR0 ir) (fieldR1 ir) (fieldOffset6 ir)
  | .rti => .rti
  | .not => .notReg (fieldR0 ir) (fieldR1 ir)
  | .ldi => .ldi (fieldR0 ir) (fieldOffset9 ir)
  | .sti => .sti (fieldR0 ir) (fieldOffset9 ir)
  | .jmp => .jmp (fieldR1 ir)
  | .res => .res
  | .lea => .lea (fieldR0 ir) (fieldOffset9 ir)
  | .trap => decodeTrap (fieldTrapvect8 ir)

/-- The host's reading of the decoder: one 16-bit word, the bits above `nbits` zero. Every instruction is one word
(R80), so a number that does not fit one is no instruction. -/
def decodeTableWord (nbits w : Nat) : Option Instr :=
  if w % 2 ^ nbits < 2 ^ 16 then some (decode (BitVec.ofNat 16 (w % 2 ^ nbits))) else none

/-! ## The encoder (R84; the unused bits take the customary values of R99: notes/assumptions/20.md) -/

/-- The three bits of a register field. -/
def regBits (r : RegIdx) : BitVec 3 := BitVec.ofFin r

/-- Format PCM: `r0` 11:9, `offset9` 8:0. -/
def formatPCM (op : Opcode) (r0 : RegIdx) (offset9 : BitVec 9) : Word := nibbleOfOpcode op ++ regBits r0 ++ offset9
/-- Format OPR: `r0` 11:9, `r1` 8:6, `mode` = 0, bits 4:3 unused, `r2` 2:0. -/
def formatOPR (op : Opcode) (r0 r1 r2 : RegIdx) : Word :=
  nibbleOfOpcode op ++ regBits r0 ++ regBits r1 ++ 0b0#1 ++ 0b00#2 ++ regBits r2
/-- Format OPI: `r0` 11:9, `r1` 8:6, `mode` = 1, `imm5` 4:0. -/
def formatOPI (op : Opcode) (r0 r1 : RegIdx) (imm5 : BitVec 5) : Word :=
  nibbleOfOpcode op ++ regBits r0 ++ regBits r1 ++ 0b1#1 ++ imm5
/-- Formats BRM and NOT: `r0` 11:9, `r1` 8:6, and six low bits (`offset6`, or unused in NOT). -/
def formatBRM (op : Opcode) (r0 r1 : RegIdx) (low6 : BitVec 6) : Word :=
  nibbleOfOpcode op ++ regBits r0 ++ regBits r1 ++ low6
/-- Format JMP: bits 11:9 unused, `r1` 8:6, bits 5:0 unused. -/
def formatJMP (r1 : RegIdx) : Word := nibbleOfOpcode .jmp ++ 0b000#3 ++ regBits r1 ++ 0b000000#6
/-- Format BR: `cond` 11:9, `offset9` 8:0. -/
def formatBR (cond : BitVec 3) (offset9 : BitVec 9) : Word := nibbleOfOpcode .br ++ cond ++ offset9
/-- Format JSR: `long` = 1, `offset11` 10:0. -/
def formatJSR (offset11 : BitVec 11) : Word := nibbleOfOpcode .jsr ++ 0b1#1 ++ offset11
/-- Format JSRR: `long` = 0, bits 10:9 unused, `r1` 8:6, bits 5:0 unused. -/
def formatJSRR (r1 : RegIdx) : Word := nibbleOfOpcode .jsr ++ 0b0#1 ++ 0b00#2 ++ regBits r1 ++ 0b000000#6
/-- Format TRAP: bits 11:8 unused, `trapvect8` 7:0. -/
def formatTRAP (trapvect8 : BitVec 8) : Word := nibbleOfOpcode .trap ++ 0b0000#4 ++ trapvect8
/-- Format ILL: bits 11:0 unused. -/
def formatILL (op : Opcode) : Word := nibbleOfOpcode op ++ 0x000#12

/-- The word of a well-formed instruction, with 0 in every unused bit but bits 5:0 of NOT, which are 111111 (R99). -/
def encode : Instr → Word
  | .br cond offset9 => formatBR cond offset9
  | .addReg dr sr1 sr2 => formatOPR .add dr sr1 sr2
  | .addImm dr sr1 imm5 => formatOPI .add dr sr1 imm5
  | .ld dr offset9 => formatPCM .ld dr offset9
  | .st sr offset9 => formatPCM .st sr offset9
  | .jsr offset11 => formatJSR offset11
  | .jsrr baseR => formatJSRR baseR
  | .andReg dr sr1 sr2 => formatOPR .and dr sr1 sr2
  | .andImm dr sr1 imm5 => formatOPI .and dr sr1 imm5
  | .ldr dr baseR offset6 => formatBRM .ldr dr baseR offset6
  | .str sr baseR offset6 => formatBRM .str sr baseR offset6
  | .rti => formatILL .rti
  | .notReg dr sr => formatBRM .not dr sr 0b111111#6
  | .ldi dr offset9 => formatPCM .ldi dr offset9
  | .sti sr offset9 => formatPCM .sti sr offset9
  | .jmp baseR => formatJMP baseR
  | .res => formatILL .res
  | .lea dr offset9 => formatPCM .lea dr offset9
  | .trapGetc => formatTRAP Config.vecGetc
  | .trapOut => formatTRAP Config.vecOut
  | .trapPuts => formatTRAP Config.vecPuts
  | .trapIn => formatTRAP Config.vecIn
  | .trapPutsp => formatTRAP Config.vecPutsp
  | .trapHalt => formatTRAP Config.vecHalt
  | .trapUndefined v => formatTRAP v

/-! ## The match/mask table of R92, a second and independent reading of the encodings -/

/-- One row of R92: a word selects it when `word & mask == pattern`. -/
structure Row where
  mnemonic : String
  mask : Word
  pattern : Word
deriving DecidableEq, Repr

/-- R92: "`word & mask == match`". -/
def Row.accepts (r : Row) (w : Word) : Bool := w &&& r.mask == r.pattern

/-- The row of R92 an instruction stands for. -/
def Instr.row : Instr → Row
  | .br _ _ => ⟨"BR", 0xF000, 0x0000⟩
  | .addReg _ _ _ => ⟨"ADD (register)", 0xF020, 0x1000⟩
  | .addImm _ _ _ => ⟨"ADD (immediate)", 0xF020, 0x1020⟩
  | .ld _ _ => ⟨"LD", 0xF000, 0x2000⟩
  | .st _ _ => ⟨"ST", 0xF000, 0x3000⟩
  | .jsr _ => ⟨"JSR", 0xF800, 0x4800⟩
  | .jsrr _ => ⟨"JSRR", 0xF800, 0x4000⟩
  | .andReg _ _ _ => ⟨"AND (register)", 0xF020, 0x5000⟩
  | .andImm _ _ _ => ⟨"AND (immediate)", 0xF020, 0x5020⟩
  | .ldr _ _ _ => ⟨"LDR", 0xF000, 0x6000⟩
  | .str _ _ _ => ⟨"STR", 0xF000, 0x7000⟩
  | .rti => ⟨"RTI", 0xF000, 0x8000⟩
  | .notReg _ _ => ⟨"NOT", 0xF000, 0x9000⟩
  | .ldi _ _ => ⟨"LDI", 0xF000, 0xA000⟩
  | .sti _ _ => ⟨"STI", 0xF000, 0xB000⟩
  | .jmp _ => ⟨"JMP", 0xF000, 0xC000⟩
  | .res => ⟨"RES", 0xF000, 0xD000⟩
  | .lea _ _ => ⟨"LEA", 0xF000, 0xE000⟩
  | .trapGetc => ⟨"TRAP GETC", 0xF0FF, 0xF020⟩
  | .trapOut => ⟨"TRAP OUT", 0xF0FF, 0xF021⟩
  | .trapPuts => ⟨"TRAP PUTS", 0xF0FF, 0xF022⟩
  | .trapIn => ⟨"TRAP IN", 0xF0FF, 0xF023⟩
  | .trapPutsp => ⟨"TRAP PUTSP", 0xF0FF, 0xF024⟩
  | .trapHalt => ⟨"TRAP HALT", 0xF0FF, 0xF025⟩
  | .trapUndefined _ => ⟨"TRAP (undefined vector)", 0xF000, 0xF000⟩

/-- The rows of R92 in the order of its table, the undefined-vector row last. One term of each constructor names it. -/
def decodeTable : List Row :=
  [.br 0 0, .addReg 0 0 0, .addImm 0 0 0, .ld 0 0, .st 0 0, .jsr 0, .jsrr 0, .andReg 0 0 0, .andImm 0 0 0,
    .ldr 0 0 0, .str 0 0 0, .rti, .notReg 0 0, .ldi 0 0, .sti 0 0, .jmp 0, .res, .lea 0 0, .trapGetc, .trapOut,
    .trapPuts, .trapIn, .trapPutsp, .trapHalt, .trapUndefined 0].map Instr.row

/-- R84, R96: the bits of an instruction's word that some field of it uses (the opcode among them). -/
def Instr.usedMask : Instr → Word
  | .addReg _ _ _ | .andReg _ _ _ => 0xFFE7
  | .notReg _ _ => 0xFFC0
  | .jmp _ => 0xF1C0
  | .jsrr _ => 0xF9C0
  | .rti | .res => 0xF000
  | .trapGetc | .trapOut | .trapPuts | .trapIn | .trapPutsp | .trapHalt | .trapUndefined _ => 0xF0FF
  | .br _ _ | .addImm _ _ _ | .ld _ _ | .st _ _ | .jsr _ | .andImm _ _ _ | .ldr _ _ _ | .str _ _ _ | .ldi _ _
  | .sti _ _ | .lea _ _ => 0xFFFF

end Sys2Proof
end

