-- ==== Sys2Proof/Machine/Flags.lean ====
section
/-!
DEFINITION. The condition-code flag logic (10_state.md R26 to R28): the three flag values and the flag of a word.
-/
namespace Sys2Proof.Machine

/-- R26: the three mutually exclusive flags. -/
inductive Flag where
  | negative | zero | positive
deriving DecidableEq, Repr

/-! `FL_N`, `FL_Z`, `FL_P` (R26; D3, PRESUMED: notes/assumptions/3.md), in the 16-bit cell of the register file. -/

def FL_N : Word := 0b100
def FL_Z : Word := 0b010
def FL_P : Word := 0b001

/-- R26: the value of a flag in the condition-code register. -/
def Flag.code : Flag → Word
  | .negative => FL_N
  | .zero => FL_Z
  | .positive => FL_P

/-- R28: "Negative if bit 15 is set, Zero if the value is exactly 0, Positive otherwise". -/
def flagOf (v : Word) : Flag :=
  if v.getLsbD 15 then .negative else if v = 0 then .zero else .positive

/-- R28: the value `setcc` writes for a register that holds `v`. -/
def ccOf (v : Word) : Word := (flagOf v).code

/-- R26, R27: "exactly one of" the three values. -/
def ccLegal (cc : Word) : Bool := cc == FL_N || cc == FL_Z || cc == FL_P

/-- R142: "(cond bitwise-AND ConditionCode) ≠ 0", the mask being the instruction's bits 11:9. -/
def branchTaken (cond : BitVec 3) (cc : Word) : Bool := cond.setWidth 16 &&& cc != 0

end Sys2Proof.Machine
end

