-- ==== Sys2Proof/Machine/Defaults.lean ====
section
/-!
DEFINITION. The suggested defaults of the parameters the spec leaves OPEN (00_scope.md R5; 92_eei_decisions.md, table
of open parameters). `State.reset` takes them; every other start is a `State.launch` with other values. The spec does
not vouch for any of them.
-/
namespace Sys2Proof.Machine

/-- D4, PRESUMED (notes/assumptions/4.md). -/
def defaultKbsrAddr : Word := 0xFE00
/-- D4, PRESUMED (notes/assumptions/4.md). -/
def defaultKbdrAddr : Word := 0xFE02

/-- D14, PRESUMED (notes/assumptions/14.md): the 19 bytes of "Enter a character: ". -/
def defaultInPrompt : List Byte :=
  [0x45, 0x6E, 0x74, 0x65, 0x72, 0x20, 0x61, 0x20, 0x63, 0x68, 0x61, 0x72, 0x61, 0x63, 0x74, 0x65, 0x72, 0x3A, 0x20]

/-- D14, PRESUMED (notes/assumptions/14.md): "HALT" then 0x0A. -/
def defaultHaltNotice : List Byte := [0x48, 0x41, 0x4C, 0x54, 0x0A]

/-- The default launch parameters. -/
def defaultParams : Config.Params where
  kbsrAddr := defaultKbsrAddr
  kbdrAddr := defaultKbdrAddr
  inPrompt := defaultInPrompt
  haltNotice := defaultHaltNotice

/-- D7, DESIGN CHOICE (notes/assumptions/7.md): `GPR_RESET`, all eight registers 0. -/
def defaultGpr : Vector Word 8 := Vector.replicate 8 0

/-- D8, DESIGN CHOICE (notes/assumptions/8.md): `CC_RESET`. -/
def defaultCc : Flag := .zero

/-- D9, DESIGN CHOICE (notes/assumptions/9.md): what a memory word that nothing has written reads as (`MEM_RESET`).
THE one definition of it. -/
def unlistedWord : Word := 0

end Sys2Proof.Machine
end

