-- ==== Sys2Proof/Machine/State.lean ====
section
/-!
DEFINITION. The state of the core (10_state.md), of the host's streams as the core sees them (R35), and of the launch
parameters; the reasons a step can stop; the state at machine start. Plain data throughout.
-/
namespace Sys2Proof.Machine

/-- One listed word of memory: its address and the word. The addressable unit is the 16-bit word, "not the byte"
(R50), and nothing addresses a byte (R58), so a cell holds a word (notes/assumptions/24.md). -/
abbrev Cell := Nat × Word

/-- R50: the 65536 words, as the list of those that differ from `unlistedWord`, addresses strictly rising
(`Memory.wf` in Machine/Ops.lean). -/
abbrev Memory := List Cell

/-- R33: why a run ended through the fatal path. -/
inductive Cause where
  /-- R231: "execution reaches the reserved or return-from-interrupt opcode". -/
  | illegalOpcode
  /-- R233: a TRAP whose vector is outside 0x20..0x25. -/
  | illegalTrap
  /-- R234: PUTS or PUTSP met no terminator up to 0xFFFF. -/
  | stringOverrun
  /-- R236: the host ended the run. -/
  | externalCancel
deriving DecidableEq, Repr

/-- R33: the run state. -/
inductive RunState where
  | running
  | halted
  | aborted (cause : Cause)
deriving DecidableEq, Repr

/-- R241: which trap routine is blocked in `read_char()`. -/
inductive BlockedRead where
  | getc
  | trapIn
deriving DecidableEq, Repr

/-- R242, R243: an event of the output stream: one byte, or a `flush` mark (which adds no byte). -/
inductive OutEvent where
  | char (b : Byte)
  | flush
deriving DecidableEq, Repr

/-- The whole state. Fields `regs` to `run` are the core's (10_state.md: "eight general registers, the program
counter, the condition code, the memory array, and the run state"); `input` and `output` are the host's streams
(R35); `wait`, `keyAnswers` and `polls` are the model's own; `params` never changes. -/
structure State where
  /-- R20: R0..R7. -/
  regs : Vector Word 8
  /-- R23. -/
  pc : Word
  /-- R26: the condition code, in its 16-bit cell (C7; notes/assumptions/29.md). -/
  cc : Word
  /-- R50; KBSR and KBDR are two of its words (R32). -/
  mem : Memory
  /-- R33. -/
  run : RunState
  /-- R35 (a): "a sequence of bytes not yet consumed", the next one first. -/
  input : List Byte
  /-- R35 (c): what was written, the oldest event first. -/
  output : List OutEvent
  /-- R241: the routine blocked in `read_char()`, if one is (notes/assumptions/15.md). -/
  wait : Option BlockedRead
  /-- R240: the answers of `key_available()` the host has scripted, the next one first (notes/assumptions/16.md). -/
  keyAnswers : List Bool
  /-- R240: how many polls were made; the argument of the free value `Config.keyAnswer`. -/
  polls : Nat
  /-- R5: the open parameters (notes/assumptions/25.md). -/
  params : Config.Params
deriving DecidableEq, Repr

/-- Why a step is not taken. Raised by `step` alone; no instruction's meaning ends in one. -/
inductive Fault where
  /-- The run has ended normally: "`Halted` and `Aborted(_)` have no successor" (R33, R266). Raised by `step` in a
  halted state. SAFE: no further state is claimed (notes/assumptions/23.md). -/
  | noStepHalted
  /-- The run has ended through the fatal path, with this cause: "no further step is ever taken" (R232). Raised by
  `step` in an aborted state. SAFE: no further state is claimed (notes/assumptions/23.md). -/
  | noStepAborted (cause : Cause)
deriving DecidableEq, Repr

/-- Why an instruction has no meaning. -/
inductive Refusal where
  /-- Raised by an arm of `exec` without a meaning, naming its row of spec/opcode_table.json. SAFE. No arm raises it. -/
  | notModelled (mnemonic : String)
deriving DecidableEq, Repr

/-- R5, R41: what the spec leaves to the launch of the machine. -/
structure Launch where
  /-- `GPR_RESET` (R37). -/
  gpr : Vector Word 8
  /-- `CC_RESET` (R38): "one of `FL_N`, `FL_Z`, `FL_P`". -/
  cc : Flag
  /-- R39: the loaded words and `MEM_RESET`. -/
  mem : Memory
  /-- R40: "the input stream is whatever the host supplies". -/
  input : List Byte
  /-- R240: the answers the host has scripted. -/
  keyAnswers : List Bool
  /-- The open parameters of R5. -/
  params : Config.Params
deriving DecidableEq, Repr

/-- R36 to R41, R260: the state in which the first step runs. -/
def State.launch (l : Launch) : State where
  regs := l.gpr
  pc := Config.pcStart
  cc := l.cc.code
  mem := l.mem
  run := .running
  input := l.input
  output := []
  wait := none
  keyAnswers := l.keyAnswers
  polls := 0
  params := l.params

/-- The launch with every open parameter at its suggested default, no image loaded and nothing typed
(notes/assumptions/7.md, 8.md, 9.md, 28.md). -/
def Launch.default : Launch where
  gpr := defaultGpr
  cc := defaultCc
  mem := []
  input := []
  keyAnswers := []
  params := defaultParams

/-- The machine right after reset (R41). -/
def State.reset : State := State.launch Launch.default

end Sys2Proof.Machine
end

