-- ==== Sys2Proof/Machine/Ops.lean ====
section
/-!
DEFINITION. The named operations over memory, registers, the host's capabilities and the run state: the primitives of
00_scope.md R8. Every meaning is written over these.
-/
namespace Sys2Proof.Machine

/-! ## The memory array (20_memory.md R50, R55) -/

/-- The word listed at `a`, or what an unlisted address reads as. -/
def Memory.lookup : Memory → Nat → Word
  | [], _ => unlistedWord
  | (k, v) :: rest, a => if k = a then v else Memory.lookup rest a

/-- The list with the word at `a` replaced, kept in canonical form: a word equal to `unlistedWord` is not listed. -/
def Memory.insert : Memory → Nat → Word → Memory
  | [], a, v => if v = unlistedWord then [] else [(a, v)]
  | (k, w) :: rest, a, v =>
    if a < k then (if v = unlistedWord then (k, w) :: rest else (a, v) :: (k, w) :: rest)
    else if a = k then (if v = unlistedWord then rest else (a, v) :: rest)
    else (k, w) :: Memory.insert rest a v

/-- R8: `mem[a]`, "the stored word at address a, no side effect (the raw array)". Every 16-bit value is a valid
address (R51). -/
def Memory.read (m : Memory) (a : Word) : Word := m.lookup a.toNat

/-- R55: `mem[a] <- v`. -/
def Memory.write (m : Memory) (a v : Word) : Memory := Memory.insert m a.toNat v

/-- Every listed address is at least `lo`, addresses rise strictly and stay below 65536, and no listed word equals
`unlistedWord`. -/
def Memory.wfFrom : Nat → Memory → Bool
  | _, [] => true
  | lo, (k, v) :: rest => decide (lo ≤ k) && decide (k < 65536) && v != unlistedWord && Memory.wfFrom (k + 1) rest

/-- The canonical form: equal memories are equal lists. -/
def Memory.wf (m : Memory) : Bool := Memory.wfFrom 0 m

/-! ## The register file (10_state.md R20 to R28) -/

/-- R8, R20: `x[i]`. -/
def State.x (s : State) (i : RegIdx) : Word := s.regs[i]

/-- R8, R20: `x[i] <- v`; "replaces its whole value", no register is hardwired. -/
def State.setX (s : State) (i : RegIdx) (v : Word) : State := { s with regs := s.regs.set i v }

/-- R8, R23: `pc <- v`. -/
def State.setPc (s : State) (v : Word) : State := { s with pc := v }

/-- R8, R26: `cc <- v`. -/
def State.writeCc (s : State) (v : Word) : State := { s with cc := v }

/-- R8, R28: `setcc(i)`, from the value register i holds AFTER the instruction's write. -/
def State.setcc (s : State) (i : RegIdx) : State := s.writeCc (ccOf (s.x i))

/-- R21: `get(index)`, index 0..9: the general registers, then the PC at 8 and the condition code at 9 (D6:
notes/assumptions/6.md). -/
def State.rfGet (s : State) (index : Fin 10) : Word :=
  if h : index.val < 8 then s.x ⟨index.val, h⟩ else if index.val = 8 then s.pc else s.cc

/-- R21: `set(index, value)`. -/
def State.rfSet (s : State) (index : Fin 10) (v : Word) : State :=
  if h : index.val < 8 then s.setX ⟨index.val, h⟩ v else if index.val = 8 then s.setPc v else s.writeCc v

/-- An instruction that defines a result register: write it, then `setcc` on it (R29, R265: "the last action of the
handler"). -/
def State.setXcc (s : State) (i : RegIdx) (v : Word) : State := (s.setX i v).setcc i

/-! ## The host's capabilities (60_exceptions.md R240 to R243) -/

/-- R240: the answer the host gives to this poll: the next one scripted, else the free value; true "only when the
input stream holds at least one byte" (D16: notes/assumptions/16.md). -/
def State.keyReady (s : State) : Bool :=
  !s.input.isEmpty && (match s.keyAnswers with
    | a :: _ => a
    | [] => Config.keyAnswer s.polls)

/-- The poll is made: its scripted answer is used up and the count goes on. -/
def State.polled (s : State) : State := { s with keyAnswers := s.keyAnswers.tail, polls := s.polls + 1 }

/-- The bytes not yet consumed are now these. -/
def State.setInput (s : State) (bytes : List Byte) : State := { s with input := bytes }

/-- R241: `read_char()`: "removes the first byte of the host's input stream and returns it"; none where the stream is
empty and the call does not return. -/
def State.readChar (s : State) : Option (Byte × State) :=
  match s.input with
  | [] => none
  | c :: rest => some (c, s.setInput rest)

/-- R242: `write_char` of each byte in order. -/
def State.emit (s : State) (bytes : List Byte) : State := { s with output := s.output ++ bytes.map .char }

/-- R243: `flush()`, recorded as a mark. -/
def State.flush (s : State) : State := { s with output := s.output ++ [.flush] }

/-- R242: "The output stream, as a sequence of bytes": the events without the flush marks. -/
def outputBytes : List OutEvent → List Byte
  | [] => []
  | .char b :: rest => b :: outputBytes rest
  | .flush :: rest => outputBytes rest

/-! ## The memory interface with the keyboard interception (20_memory.md R53, R55) -/

/-- R8: `zext_16(b)`: "the byte b as a Word with bits 15:8 zero". -/
def zext16 (b : Byte) : Word := b.setWidth 16

/-- R55: `MemWrite(a, 1, v)`: plain storage at every address, the keyboard's two among them. -/
def State.memWrite (s : State) (a v : Word) : State := { s with mem := s.mem.write a v }

/-- R53: what a status read stores when a key is available: "sets the status word's top bit", the whole word 0x8000
(D5: notes/assumptions/5.md). -/
def kbsrReady : Word := 0x8000

/-- R53: what it stores otherwise: "clears the status word". -/
def kbsrNotReady : Word := 0x0000

/-- R53: the update of KBSR and KBDR that comes before a read of `KBSR_ADDR`. -/
def State.pollKeyboard (s : State) : State :=
  if s.keyReady then
    match ((s.polled).memWrite s.params.kbsrAddr kbsrReady).readChar with
    | some (c, s') => s'.memWrite s.params.kbdrAddr (zext16 c)
    | none => (s.polled).memWrite s.params.kbsrAddr kbsrReady
  else (s.polled).memWrite s.params.kbsrAddr kbsrNotReady

/-- R53: the state after `MemRead(a, 1)`: polled when `a` equals `KBSR_ADDR` in all 16 bits, else unchanged. -/
def State.afterRead (s : State) (a : Word) : State := if a = s.params.kbsrAddr then s.pollKeyboard else s

/-- R53: `MemRead(a, 1)`: the word, "read AFTER the update", and the state. -/
def State.memRead (s : State) (a : Word) : Word × State := ((s.afterRead a).mem.read a, s.afterRead a)

/-! ## The fetch (70_reset_and_hazards.md R264, 20_memory.md R56) -/

/-- `ir <- MemRead(pc, 1)`, then `pc <- pc + 1` mod 2^16 (R24). -/
def State.fetch (s : State) : Word × State :=
  ((s.memRead s.pc).1, (s.memRead s.pc).2.setPc ((s.memRead s.pc).2.pc + 1))

/-! ## Trap entry and the fatal path (43_trap.md R190, 60_exceptions.md R232, R239) -/

/-- R190, R239: what every TRAP does before its routine runs: "the only state saved is the incremented PC, into R7". -/
def State.trapEntry (s : State) : State := s.setX R7 s.pc

/-- R232: `raise <Cause>`: `run <- Aborted(<Cause>)`; "The state is frozen as it stands". -/
def State.raise (s : State) (cause : Cause) : State := { s with run := .aborted cause }

/-- R196: `run <- Halted`. -/
def State.halt (s : State) : State := { s with run := .halted }

/-- R241: the step is blocked in `read_char()` of this routine; `run` stays `Running`. -/
def State.block (s : State) (r : BlockedRead) : State := { s with wait := some r }

/-- The blocked call is tried again. -/
def State.unblock (s : State) : State := { s with wait := none }

end Sys2Proof.Machine
end

