-- ==== Sys2Proof/Machine/Operands.lean ====
section
/-!
DEFINITION. The operand forms: sign extension (30_encoding.md R86), the ALU with its second operand (40_operate.md
R120, R88), and the three effective addresses (42_load_store.md R168). No flag is computed here (Flags.lean).
-/
namespace Sys2Proof.Machine

/-- R86: `sext_N(v)`: "if bit (n-1) of v is 1, result = v | (0xFFFF << n) truncated to 16 bits; else result = v". -/
def sext {n : Nat} (v : BitVec n) : Word :=
  if v.getLsbD (n - 1) then v.setWidth 16 ||| (0xFFFF : Word) <<< n else v.setWidth 16

/-! ## The ALU (R120) -/

/-- `ADD(a, b) = (a + b) mod 2^16`. -/
def aluAdd (a b : Word) : Word := a + b
/-- `AND(a, b) = a & b`. -/
def aluAnd (a b : Word) : Word := a &&& b
/-- `NOT(a) = ~a`. -/
def aluNot (a : Word) : Word := ~~~a

/-- R88: the second ALU operand in register mode. -/
def State.regOperand (s : State) (r2 : RegIdx) : Word := s.x r2
/-- R88: the second ALU operand in immediate mode. -/
def immOperand (imm5 : BitVec 5) : Word := sext imm5

/-! ## Effective addresses and targets (R140, R168) -/

/-- R140, R168: `pc + sext_N(offset)`, with the incremented pc. -/
def State.pcRelative {n : Nat} (s : State) (offset : BitVec n) : Word := s.pc + sext offset

/-- R168: `x[r1] + sext_6(offset6)`. -/
def State.basePlus (s : State) (baseR : RegIdx) (offset6 : BitVec 6) : Word := s.x baseR + sext offset6

end Sys2Proof.Machine
end

