-- ==== Sys2Proof/Machine/Control.lean ====
section
/-!
DEFINITION. Control transfer BR, JMP, JSR, JSRR (41_control.md). pc is the incremented one. No flag is written.
-/
namespace Sys2Proof.Machine

/-- R142. -/
def execBr (cond : BitVec 3) (offset9 : BitVec 9) (s : State) : Host.Outcome State Fault Refusal :=
  .next (if branchTaken cond s.cc then s.setPc (s.pcRelative offset9) else s)

/-- R144. -/
def execJmp (baseR : RegIdx) (s : State) : Host.Outcome State Fault Refusal :=
  .next (s.setPc (s.x baseR))

/-- R145: the return address is saved, then the target is formed from the same pc. -/
def execJsr (offset11 : BitVec 11) (s : State) : Host.Outcome State Fault Refusal :=
  .next ((s.setX R7 s.pc).setPc ((s.setX R7 s.pc).pcRelative offset11))

/-- R146: R7 is "written FIRST", the base is "read AFTER the write of R7" (D18: notes/assumptions/18.md). -/
def execJsrr (baseR : RegIdx) (s : State) : Host.Outcome State Fault Refusal :=
  .next ((s.setX R7 s.pc).setPc ((s.setX R7 s.pc).x baseR))

end Sys2Proof.Machine
end

