-- ==== Sys2Proof/Machine/Illegal.lean ====
section
/-!
DEFINITION. The two fatal opcodes RES and RTI (44_illegal.md R220, R221; D10: notes/assumptions/10.md).
-/
namespace Sys2Proof.Machine

/-- R220: "raise IllegalOpcode"; nothing else changes. -/
def execRes (s : State) : Host.Outcome State Fault Refusal := .next (s.raise .illegalOpcode)

/-- R221: "raise IllegalOpcode"; RTI restores nothing. -/
def execRti (s : State) : Host.Outcome State Fault Refusal := .next (s.raise .illegalOpcode)

end Sys2Proof.Machine
end

