-- ==== Sys2Proof/Machine/LoadStore.lean ====
section
/-!
DEFINITION. Loads, stores and LEA (42_load_store.md). Every read goes through `memRead`, so any of them may poll the
keyboard (R273); every store is plain (R55).
-/
namespace Sys2Proof.Machine

/-- A load of the word at `ea` into DR, then `setcc(DR)`: the common end of LD, LDI, LDR. -/
def State.loadFrom (s : State) (dr : RegIdx) (ea : Word) : State := (s.memRead ea).2.setXcc dr (s.memRead ea).1

/-- R160. -/
def execLd (dr : RegIdx) (offset9 : BitVec 9) (s : State) : Host.Outcome State Fault Refusal :=
  .next (s.loadFrom dr (s.pcRelative offset9))

/-- R161: "two sequential memory reads": the pointer, then the data, in the state the first read left. -/
def execLdi (dr : RegIdx) (offset9 : BitVec 9) (s : State) : Host.Outcome State Fault Refusal :=
  .next ((s.memRead (s.pcRelative offset9)).2.loadFrom dr (s.memRead (s.pcRelative offset9)).1)

/-- R162: the base is read before DR is written. -/
def execLdr (dr baseR : RegIdx) (offset6 : BitVec 6) (s : State) : Host.Outcome State Fault Refusal :=
  .next (s.loadFrom dr (s.basePlus baseR offset6))

/-- R163: the address itself; "no read occurs". -/
def execLea (dr : RegIdx) (offset9 : BitVec 9) (s : State) : Host.Outcome State Fault Refusal :=
  .next (s.setXcc dr (s.pcRelative offset9))

/-- R164. -/
def execSt (sr : RegIdx) (offset9 : BitVec 9) (s : State) : Host.Outcome State Fault Refusal :=
  .next (s.memWrite (s.pcRelative offset9) (s.x sr))

/-- R165: the address STI stores to: the pointer word, read through `memRead`. -/
def State.stiTarget (s : State) (offset9 : BitVec 9) : Word := (s.memRead (s.pcRelative offset9)).1

/-- R165: "read the pointer", "then write the data", in the state the read left. -/
def execSti (sr : RegIdx) (offset9 : BitVec 9) (s : State) : Host.Outcome State Fault Refusal :=
  .next ((s.memRead (s.pcRelative offset9)).2.memWrite (s.stiTarget offset9) (s.x sr))

/-- R166. -/
def execStr (sr baseR : RegIdx) (offset6 : BitVec 6) (s : State) : Host.Outcome State Fault Refusal :=
  .next (s.memWrite (s.basePlus baseR offset6) (s.x sr))

end Sys2Proof.Machine
end

