-- ==== Sys2Proof/Machine/Operate.lean ====
section
/-!
DEFINITION. The operate instructions ADD, AND, NOT (40_operate.md R123 to R125). The state a meaning takes is the one
after the fetch, with pc already incremented (00_scope.md R9).
-/
namespace Sys2Proof.Machine

/-- R123, register mode: both sources are read before DR is written. -/
def execAddReg (dr sr1 sr2 : RegIdx) (s : State) : Host.Outcome State Fault Refusal :=
  .next (s.setXcc dr (aluAdd (s.x sr1) (s.regOperand sr2)))

/-- R123, immediate mode. -/
def execAddImm (dr sr1 : RegIdx) (imm5 : BitVec 5) (s : State) : Host.Outcome State Fault Refusal :=
  .next (s.setXcc dr (aluAdd (s.x sr1) (immOperand imm5)))

/-- R124, register mode. -/
def execAndReg (dr sr1 sr2 : RegIdx) (s : State) : Host.Outcome State Fault Refusal :=
  .next (s.setXcc dr (aluAnd (s.x sr1) (s.regOperand sr2)))

/-- R124, immediate mode: the immediate is sign-extended before the AND. -/
def execAndImm (dr sr1 : RegIdx) (imm5 : BitVec 5) (s : State) : Host.Outcome State Fault Refusal :=
  .next (s.setXcc dr (aluAnd (s.x sr1) (immOperand imm5)))

/-- R125. -/
def execNotReg (dr sr : RegIdx) (s : State) : Host.Outcome State Fault Refusal :=
  .next (s.setXcc dr (aluNot (s.x sr)))

end Sys2Proof.Machine
end

