-- ==== Sys2Proof/Machine/Trap.lean ====
section
/-!
DEFINITION. The Trap Dispatcher (43_trap.md): TRAP saves the incremented pc in R7 (`trapEntry`) and its routine runs in
the same step. A read of an empty input stream leaves the step blocked (60_exceptions.md R241;
notes/assumptions/15.md); `resumeRead` goes on with it.
-/
namespace Sys2Proof.Machine

/-! ## Strings (R193, R195) -/

/-- R193: the one character PUTS writes for a word: "each Word's low byte is one character". -/
def putsChars (w : Word) : List Byte := [w.extractLsb' 0 8]

/-- R195: the characters PUTSP writes for a word: "low byte first, then high byte if nonzero". -/
def putspChars (w : Word) : List Byte :=
  w.extractLsb' 0 8 :: (if w.extractLsb' 8 8 = 0 then [] else [w.extractLsb' 8 8])

/-- The scan of PUTS and PUTSP over the `n` words from `a` on: what was written, and whether a word equal to 0x0000
ended it. The reads are raw (R54; D12: notes/assumptions/12.md). -/
def scanString (chars : Word → List Byte) (m : Memory) : Nat → Word → List Byte × Bool
  | 0, _ => ([], false)
  | n + 1, a =>
    if m.read a = 0 then ([], true)
    else (chars (m.read a) ++ (scanString chars m n (a + 1)).1, (scanString chars m n (a + 1)).2)

/-- How many words there are from `a` up to and including 0xFFFF: where the scan ends (R234). -/
def wordsFrom (a : Word) : Nat := 65536 - a.toNat

/-- The scan that starts at the address in R0. -/
def State.scanR0 (s : State) (chars : Word → List Byte) : List Byte × Bool :=
  scanString chars s.mem (wordsFrom (s.x R0)) (s.x R0)

/-- R193, R195, R234: write the characters; then flush, or, where no terminator was met, raise StringOverrun, after the
characters "have been written and before the flush" (D13: notes/assumptions/13.md). -/
def State.putString (s : State) (chars : Word → List Byte) : State :=
  if (s.scanR0 chars).2 then (s.emit (s.scanR0 chars).1).flush
  else (s.emit (s.scanR0 chars).1).raise .stringOverrun

/-! ## The routines -/

/-- R191: GETC. -/
def State.getc (s : State) : State :=
  match s.readChar with
  | some (c, s') => s'.setXcc R0 (zext16 c)
  | none => s.block .getc

/-- R192: OUT. -/
def State.out (s : State) : State := (s.emit [(s.x R0).extractLsb' 0 8]).flush

/-- R193: PUTS. -/
def State.puts (s : State) : State := s.putString putsChars

/-- R194: IN from its `read_char()` on: echo, flush (D23: notes/assumptions/22.md), store, flags. -/
def State.inRead (s : State) : State :=
  match s.readChar with
  | some (c, s') => ((s'.emit [c]).flush).setXcc R0 (zext16 c)
  | none => s.block .trapIn

/-- R194: IN: the prompt, then the read. -/
def State.trapInput (s : State) : State := (s.emit s.params.inPrompt).inRead

/-- R195: PUTSP. -/
def State.putsp (s : State) : State := s.putString putspChars

/-- R196: HALT. -/
def State.haltRoutine (s : State) : State := ((s.emit s.params.haltNotice).flush).halt

/-! ## The meanings: R190's `x[7] <- pc`, "always, before the routine runs", then the routine -/

/-- R191, vector 0x20. -/
def execTrapGetc (s : State) : Host.Outcome State Fault Refusal := .next s.trapEntry.getc

/-- R192, vector 0x21. -/
def execTrapOut (s : State) : Host.Outcome State Fault Refusal := .next s.trapEntry.out

/-- R193, vector 0x22. -/
def execTrapPuts (s : State) : Host.Outcome State Fault Refusal := .next s.trapEntry.puts

/-- R194, vector 0x23. -/
def execTrapIn (s : State) : Host.Outcome State Fault Refusal := .next s.trapEntry.trapInput

/-- R195, vector 0x24. -/
def execTrapPutsp (s : State) : Host.Outcome State Fault Refusal := .next s.trapEntry.putsp

/-- R196, vector 0x25. -/
def execTrapHalt (s : State) : Host.Outcome State Fault Refusal := .next s.trapEntry.haltRoutine

/-- R198: "after R7 has been written (rule R190) the step ends with `run <- Aborted(IllegalTrap)`" (D11:
notes/assumptions/11.md). The vector has no other effect. -/
def execTrapUndefined (_trapvect8 : BitVec 8) (s : State) : Host.Outcome State Fault Refusal :=
  .next (s.trapEntry.raise .illegalTrap)

/-! ## A blocked read (R241) -/

/-- What a step does while a routine is blocked in `read_char()`: the call returns if the host has supplied a byte, and
the routine completes from there; else it blocks again and nothing changes. -/
def resumeRead (r : BlockedRead) (s : State) : Host.Outcome State Fault Refusal :=
  match r with
  | .getc => .next s.unblock.getc
  | .trapIn => .next s.unblock.inRead

end Sys2Proof.Machine
end

