-- ==== Sys2Proof/Machine/Step.lean ====
section
/-!
DEFINITION. One step of the core (70_reset_and_hazards.md R264) and the placing of a word where the next step fetches.
-/
namespace Sys2Proof.Machine

/-- R264: fetch, increment, decode, dispatch, "taken only when `run = Running`". A step blocked in `read_char()` goes
on with that call (R241; notes/assumptions/15.md). From `Halted` or `Aborted` there is no step (R33;
notes/assumptions/23.md). -/
def step (s : State) : Host.Outcome State Fault Refusal :=
  match s.run with
  | .halted => .fault .noStepHalted
  | .aborted cause => .fault (.noStepAborted cause)
  | .running =>
    match s.wait with
    | some r => resumeRead r s
    | none => exec (decode s.fetch.1) s.fetch.2

/-- `s` with the word `w` (its bits above `nbits` zero) stored at pc, running and not blocked, so that the very next
step fetches and runs it, unless pc is `KBSR_ADDR`, where a fetch reads what its own poll wrote (R56). It stands for
the host's loader (R262; notes/assumptions/26.md). -/
def State.withFetchWord (s : State) (nbits w : Nat) : State :=
  { s.memWrite s.pc (BitVec.ofNat 16 (w % 2 ^ nbits)) with run := .running, wait := none }

end Sys2Proof.Machine
end

