-- ==== Sys2Proof/Machine/Datapath.lean ====
section
/-!
DEFINITION. The operand multiplexers and what the decoder tells them (30_encoding.md R100 to R104): a second
description of the instructions, as one datapath steered by a control word. `exec` is the model's meaning; that the two
agree is an obligation.
-/
namespace Sys2Proof.Machine

/-- `ALU_OP` with the input `ALU_B` selects (R100): the ALU's function and, for ADD and AND, its second operand. -/
inductive AluB where
  | reg (r2 : RegIdx)
  | imm (imm5 : BitVec 5)
deriving DecidableEq, Repr

inductive AluOp where
  | add (r1 : RegIdx) (b : AluB)
  | and (r1 : RegIdx) (b : AluB)
  | not (r1 : RegIdx)
deriving DecidableEq, Repr

/-- `ADDR_BASE`. -/
inductive AddrBase where
  | pc
  | reg (r1 : RegIdx)
deriving DecidableEq, Repr

/-- `ADDR_OFF`. -/
inductive AddrOff where
  | off6 (o : BitVec 6)
  | off9 (o : BitVec 9)
  | off11 (o : BitVec 11)
deriving DecidableEq, Repr

/-- The column "memory accesses in order" of R102 (`MEM_ADDR`: the adder's output, then the word just read). -/
inductive MemOp where
  | none
  | read
  | readRead
  | write (r0 : RegIdx)
  | readWrite (r0 : RegIdx)
deriving DecidableEq, Repr

/-- `RF_WDATA`. -/
inductive WData where
  | alu
  | memory
  | adder
  | pc
deriving DecidableEq, Repr

/-- `PC_SEL`. -/
inductive PcSel where
  | hold
  | adder
  /-- "adder if `cond & cc != 0`, else hold". -/
  | branch (cond : BitVec 3)
  | reg (r1 : RegIdx)
deriving DecidableEq, Repr

/-- One row of R102; `none` is its "-". -/
structure Control where
  aluOp : Option AluOp := none
  addr : Option (AddrBase × AddrOff) := none
  mem : MemOp := .none
  /-- `RF_WADDR` with `RF_WDATA`. -/
  write : Option (RegIdx × WData) := none
  pcSel : PcSel := .hold
  ccWe : Bool := false
deriving DecidableEq, Repr

/-- The table of R102, TRAP's row for every vector, RES and RTI's row for both. -/
def controlWord : Instr → Control
  | .addReg dr r1 r2 => { aluOp := some (.add r1 (.reg r2)), write := some (dr, .alu), ccWe := true }
  | .addImm dr r1 imm => { aluOp := some (.add r1 (.imm imm)), write := some (dr, .alu), ccWe := true }
  | .andReg dr r1 r2 => { aluOp := some (.and r1 (.reg r2)), write := some (dr, .alu), ccWe := true }
  | .andImm dr r1 imm => { aluOp := some (.and r1 (.imm imm)), write := some (dr, .alu), ccWe := true }
  | .notReg dr r1 => { aluOp := some (.not r1), write := some (dr, .alu), ccWe := true }
  | .br cond o => { addr := some (.pc, .off9 o), pcSel := .branch cond }
  | .jmp r1 => { pcSel := .reg r1 }
  | .jsr o => { addr := some (.pc, .off11 o), write := some (R7, .pc), pcSel := .adder }
  | .jsrr r1 => { write := some (R7, .pc), pcSel := .reg r1 }
  | .ld dr o => { addr := some (.pc, .off9 o), mem := .read, write := some (dr, .memory), ccWe := true }
  | .ldi dr o => { addr := some (.pc, .off9 o), mem := .readRead, write := some (dr, .memory), ccWe := true }
  | .ldr dr r1 o => { addr := some (.reg r1, .off6 o), mem := .read, write := some (dr, .memory), ccWe := true }
  | .lea dr o => { addr := some (.pc, .off9 o), write := some (dr, .adder), ccWe := true }
  | .st sr o => { addr := some (.pc, .off9 o), mem := .write sr }
  | .sti sr o => { addr := some (.pc, .off9 o), mem := .readWrite sr }
  | .str sr r1 o => { addr := some (.reg r1, .off6 o), mem := .write sr }
  | .trapGetc | .trapOut | .trapPuts | .trapIn | .trapPutsp | .trapHalt | .trapUndefined _ =>
    { write := some (R7, .pc) }
  | .res | .rti => {}

/-- `ALU_B`: the second operand of the ALU. -/
def aluInput (s : State) : AluB → Word
  | .reg r2 => s.x r2
  | .imm imm5 => sext imm5

/-- The ALU's output (R120). -/
def aluResult (s : State) : Option AluOp → Word
  | some (.add r1 b) => s.x r1 + aluInput s b
  | some (.and r1 b) => s.x r1 &&& aluInput s b
  | some (.not r1) => ~~~ s.x r1
  | none => 0

/-- R101: the address adder's output. -/
def adderResult (s : State) : Option (AddrBase × AddrOff) → Word
  | some (base, off) =>
    (match base with | .pc => s.pc | .reg r1 => s.x r1) +
      (match off with | .off6 o => sext o | .off9 o => sext o | .off11 o => sext o)
  | none => 0

/-- The memory accesses in order: the data read and the state after them. -/
def memAccess (s : State) (ea : Word) : MemOp → Word × State
  | .none => (0, s)
  | .read => s.memRead ea
  | .readRead => (s.memRead ea).2.memRead (s.memRead ea).1
  | .write r0 => (0, s.memWrite ea (s.x r0))
  | .readWrite r0 => (0, (s.memRead ea).2.memWrite (s.memRead ea).1 (s.x r0))

/-- The register write: what `RF_WDATA` selects. -/
def writeData (c : Control) (s : State) (memData : Word) : WData → Word
  | .alu => aluResult s c.aluOp
  | .memory => memData
  | .adder => adderResult s c.addr
  | .pc => s.pc

/-- The next pc (R100, `PC_SEL`); `target` is the adder's output, and a register is read in the state after the
register write (R102: "read after the R7 write"). -/
def nextPc (c : Control) (target : Word) (s : State) : Word :=
  match c.pcSel with
  | .hold => s.pc
  | .adder => target
  | .branch cond => if cond.setWidth 16 &&& s.cc != 0 then target else s.pc
  | .reg r1 => s.x r1

/-- One pass of the datapath under a control word: memory accesses, register write, pc, condition code. -/
def datapath (c : Control) (s : State) : State :=
  let ea := adderResult s c.addr
  let afterMem := memAccess s ea c.mem
  let afterWrite :=
    match c.write with
    | some (r, d) => afterMem.2.setX r (writeData c s afterMem.1 d)
    | none => afterMem.2
  let afterPc := afterWrite.setPc (nextPc c ea afterWrite)
  match c.write with
  | some (r, _) => if c.ccWe then afterPc.setcc r else afterPc
  | none => afterPc

/-- What follows the datapath's pass: the trap routine of the vector, or the fatal path. -/
def afterDatapath : Instr → State → State
  | .trapGetc, s => s.getc
  | .trapOut, s => s.out
  | .trapPuts, s => s.puts
  | .trapIn, s => s.trapInput
  | .trapPutsp, s => s.putsp
  | .trapHalt, s => s.haltRoutine
  | .trapUndefined _, s => s.raise .illegalTrap
  | .res, s | .rti, s => s.raise .illegalOpcode
  | .br _ _, s | .addReg _ _ _, s | .addImm _ _ _, s | .ld _ _, s | .st _ _, s | .jsr _, s | .jsrr _, s
  | .andReg _ _ _, s | .andImm _ _ _, s | .ldr _ _ _, s | .str _ _ _, s | .notReg _ _, s | .ldi _ _, s | .sti _ _, s
  | .jmp _, s | .lea _ _, s => s

end Sys2Proof.Machine
end

