-- ==== Sys2Proof/Machine/HostActions.lean ====
section
/-!
DEFINITION. What the host may do between two steps, or while a step is blocked in `read_char()` (60_exceptions.md R236,
R244). None of these is a step of the core; "it does nothing else" to the core (R244).
-/
namespace Sys2Proof.Machine

/-- R244: "it supplies input bytes": they join the end of the stream. -/
def State.supplyInput (s : State) (bytes : List Byte) : State := { s with input := s.input ++ bytes }

/-- R240, R244: "answers `key_available()`": it scripts the next answers. -/
def State.scriptAnswers (s : State) (answers : List Bool) : State := { s with keyAnswers := s.keyAnswers ++ answers }

/-- R236: `run <- Aborted(ExternalCancel)`, "between any two steps, or while a step is blocked"; a blocked call is
given up. A run that has ended is not cancelled (R33; D19: notes/assumptions/19.md). -/
def State.cancel (s : State) : State :=
  match s.run with
  | .running => s.unblock.raise .externalCancel
  | .halted => s
  | .aborted _ => s

/-- One action of the host. -/
inductive HostAction where
  | supplyInput (bytes : List Byte)
  | scriptAnswers (answers : List Bool)
  | cancel
deriving DecidableEq, Repr

/-- The state after an action of the host. -/
def HostAction.apply (s : State) : HostAction → State
  | .supplyInput bytes => s.supplyInput bytes
  | .scriptAnswers answers => s.scriptAnswers answers
  | .cancel => s.cancel

end Sys2Proof.Machine
end

