-- ==== Sys2Proof/Machine/Loader.lean ====
section
/-!
DEFINITION. The host's image loader, as far as 70_reset_and_hazards.md R261 and R262 define it. It is out of the
core's scope (00_scope.md R4) and runs before the first step only; it says how a program comes into `State.launch`.
-/
namespace Sys2Proof.Machine

/-- R262: big-endian words: "`b2*256 + b3`"; an odd trailing byte is not a case the spec defines (U13). -/
def bigEndianWords : List Byte → Option (List Word)
  | [] => some []
  | [_] => none
  | hi :: lo :: rest => (bigEndianWords rest).map (fun ws => (hi ++ lo : BitVec 16) :: ws)

/-- R262: the words written one after another from address `a` on, plain stores. -/
def Memory.storeFrom (m : Memory) (a : Word) : List Word → Memory
  | [] => m
  | w :: ws => Memory.storeFrom (m.write a w) (a + 1) ws

/-- R262: one image: a big-endian origin, then the words. None where the file is too short, has an odd number of bytes
or runs past 0xFFFF: the spec says nothing of those (U13; notes/assumptions/27.md). -/
def loadImage (m : Memory) (image : List Byte) : Option Memory :=
  match bigEndianWords image with
  | some (origin :: ws) => if origin.toNat + ws.length ≤ 65536 then some (m.storeFrom origin ws) else none
  | _ => none

/-- R261, R262: the images one after another "so where two overlap the later one wins"; if any fails no run exists
(R247). -/
def loadImages (m : Memory) : List (List Byte) → Option Memory
  | [] => some m
  | image :: rest => (loadImage m image).bind (fun m' => loadImages m' rest)

/-- R261: machine start: the loader populates the launch memory, pc is 0x3000, the run loop starts. -/
def boot (l : Launch) (images : List (List Byte)) : Option State :=
  (loadImages l.mem images).map (fun m => State.launch { l with mem := m })

end Sys2Proof.Machine
end

