-- ==== Sys2Proof/Safety.lean ====
section
/-!
DEFINITION. What claims about the machine are made of: the invariant, the ends of a run, safe runs, and the words in
which a frame is stated.
-/
namespace Sys2Proof.Machine

/-- What every reachable state satisfies: memory in canonical form; `cc` one of the three flags (R27); the two keyboard
addresses distinct (R5); and a blocked read only in a running state whose R7 holds pc (R190: "R7 = `pc` at the end of
every TRAP step"; R241: "the core stays in `Running`"). -/
structure State.Inv (s : State) : Prop where
  mem : s.mem.wf = true
  cc : ccLegal s.cc = true
  params : s.params.legal = true
  blocked : s.wait ≠ none → s.run = .running ∧ s.x R7 = s.pc

/-- R266: "only `Halted` is the normal end of a run" (R232). -/
def State.Final (s : State) : Prop := s.run = .halted

/-- R232: a state of the fatal path: "not final". -/
def State.Aborted (s : State) : Prop := ∃ c, s.run = .aborted c

/-- A safe run of `n` steps: no state of it is an aborted one (R232: "a claim that a program runs correctly must show
it never reaches one"). A run that halts earlier is safe up to there. -/
def State.SafeFor (s : State) (n : Nat) : Prop :=
  ∀ k ≤ n, ∀ t, Host.Core.run Sys2Proof.core k s = .next t → ¬ t.Aborted

/-- The states a run from `s` reaches, the host acting between steps (R236, R244). -/
inductive Reaches (s : State) : State → Prop where
  | refl : Reaches s s
  | step {t u : State} : Reaches s t → step t = .next u → Reaches s u
  | host {t : State} (a : HostAction) : Reaches s t → Reaches s (a.apply t)

/-! ## Frames -/

/-- Every general register outside `rs` is unchanged. -/
def SameRegsBut (rs : List RegIdx) (s t : State) : Prop := ∀ r, r ∉ rs → t.x r = s.x r

/-- Every word of memory, hence every byte of every word, reads as before. -/
def SameMem (s t : State) : Prop := ∀ a, t.mem.read a = s.mem.read a

/-- Every word of memory outside `as` reads as before. -/
def SameMemBut (as : List Word) (s t : State) : Prop := ∀ a, a ∉ as → t.mem.read a = s.mem.read a

/-- The input side is untouched: nothing consumed, nothing polled. -/
def SameInput (s t : State) : Prop := t.input = s.input ∧ t.keyAnswers = s.keyAnswers ∧ t.polls = s.polls

/-- Run state, blocked read and parameters are unchanged. -/
def SameControl (s t : State) : Prop := t.run = s.run ∧ t.wait = s.wait ∧ t.params = s.params

/-- Nothing but register `dr` and the condition code differs (R126; R170): the frame of an instruction that defines
`dr` and reads and writes no memory. -/
def OnlyResult (dr : RegIdx) (s t : State) : Prop :=
  SameRegsBut [dr] s t ∧ t.pc = s.pc ∧ SameMem s t ∧ SameInput s t ∧ t.output = s.output ∧ SameControl s t

/-- Nothing but pc and R7 differs (R141): the frame of JSR and JSRR. -/
def OnlyLinkAndPc (s t : State) : Prop :=
  SameRegsBut [R7] s t ∧ t.cc = s.cc ∧ SameMem s t ∧ SameInput s t ∧ t.output = s.output ∧ SameControl s t

/-- Nothing but the words at `as` differs (R170): the frame of a store. -/
def OnlyStores (as : List Word) (s t : State) : Prop :=
  SameRegsBut [] s t ∧ t.pc = s.pc ∧ t.cc = s.cc ∧ SameMemBut as s t ∧ SameInput s t ∧ t.output = s.output ∧
    SameControl s t

/-- What every TRAP step leaves (R190, R197, R199): R7 holds pc, pc and memory are unchanged, and no register outside
`rs` is written. -/
def TrapFrame (rs : List RegIdx) (s t : State) : Prop :=
  t.x R7 = s.pc ∧ SameRegsBut (R7 :: rs) s t ∧ t.pc = s.pc ∧ SameMem s t ∧ t.params = s.params

/-- The trap instructions (R91), the undefined vectors among them. -/
def isTrap : Instr → Bool
  | .trapGetc | .trapOut | .trapPuts | .trapIn | .trapPutsp | .trapHalt | .trapUndefined _ => true
  | .br _ _ | .addReg _ _ _ | .addImm _ _ _ | .ld _ _ | .st _ _ | .jsr _ | .jsrr _ | .andReg _ _ _ | .andImm _ _ _
  | .ldr _ _ _ | .str _ _ _ | .rti | .notReg _ _ | .ldi _ _ | .sti _ _ | .jmp _ | .res | .lea _ _ => false

/-- The instructions that may set pc (R25). -/
def isControlTransfer : Instr → Bool
  | .br _ _ | .jsr _ | .jsrr _ | .jmp _ => true
  | .addReg _ _ _ | .addImm _ _ _ | .ld _ _ | .st _ _ | .andReg _ _ _ | .andImm _ _ _ | .ldr _ _ _ | .str _ _ _
  | .rti | .notReg _ _ | .ldi _ _ | .sti _ _ | .res | .lea _ _ | .trapGetc | .trapOut | .trapPuts | .trapIn
  | .trapPutsp | .trapHalt | .trapUndefined _ => false

/-- The addresses an instruction reads through `MemRead`, in order (R52, R169). -/
def readsOf (s : State) : Instr → List Word
  | .ld _ o => [s.pcRelative o]
  | .ldi _ o => [s.pcRelative o, (s.memRead (s.pcRelative o)).1]
  | .ldr _ b o => [s.basePlus b o]
  | .sti _ o => [s.pcRelative o]
  | .br _ _ | .addReg _ _ _ | .addImm _ _ _ | .st _ _ | .jsr _ | .jsrr _ | .andReg _ _ _ | .andImm _ _ _
  | .str _ _ _ | .rti | .notReg _ _ | .jmp _ | .res | .lea _ _ | .trapGetc | .trapOut | .trapPuts | .trapIn
  | .trapPutsp | .trapHalt | .trapUndefined _ => []

/-- The addresses an instruction stores to (R52, R169), by the same functions its meaning uses. -/
def storesOf (s : State) : Instr → List Word
  | .st _ o => [s.pcRelative o]
  | .sti _ o => [s.stiTarget o]
  | .str _ b o => [s.basePlus b o]
  | .br _ _ | .addReg _ _ _ | .addImm _ _ _ | .ld _ _ | .ldi _ _ | .ldr _ _ _ | .jsr _ | .jsrr _ | .andReg _ _ _
  | .andImm _ _ _ | .rti | .notReg _ _ | .jmp _ | .res | .lea _ _ | .trapGetc | .trapOut | .trapPuts | .trapIn
  | .trapPutsp | .trapHalt | .trapUndefined _ => []

/-- R262: a word as the two bytes of an image file, the more significant first. -/
def imageBytes (ws : List Word) : List Byte := ws.flatMap fun w => [w.extractLsb' 8 8, w.extractLsb' 0 8]

/-- The `k` words from address `a` on, in order (R193: "read consecutive Words from Memory"). -/
def stringWords (m : Memory) (a : Word) (k : Nat) : List Word :=
  (List.range k).map fun j => m.read (a + BitVec.ofNat 16 j)

/-- R193, R195: from `a` on there are `k` non-zero words, then a zero word, none of them past 0xFFFF: "until a zero Word
is read (not inclusive)". -/
def StringAt (m : Memory) (a : Word) (k : Nat) : Prop :=
  a.toNat + k < 65536 ∧ (∀ w ∈ stringWords m a k, w ≠ 0) ∧ m.read (a + BitVec.ofNat 16 k) = 0

/-- R234: no zero word from `a` "up to and including address 0xFFFF". -/
def NoStringAt (m : Memory) (a : Word) : Prop := ∀ w ∈ stringWords m a (65536 - a.toNat), w ≠ 0

/-- R28, by its three exclusive cases: the condition code tells the sign of `v`. -/
def FlagsTell (v cc : Word) : Prop :=
  (0x8000 ≤ v.toNat → cc = FL_N) ∧ (v.toNat = 0 → cc = FL_Z) ∧ (0 < v.toNat ∧ v.toNat < 0x8000 → cc = FL_P)

/-- The instructions of R22 and R29 that define a result register by their r0 field, with that register. -/
def resultReg : Instr → Option RegIdx
  | .addReg dr _ _ | .addImm dr _ _ | .andReg dr _ _ | .andImm dr _ _ | .notReg dr _ | .ld dr _ | .ldi dr _
  | .ldr dr _ _ | .lea dr _ => some dr
  | .br _ _ | .st _ _ | .jsr _ | .jsrr _ | .str _ _ _ | .rti | .sti _ _ | .jmp _ | .res | .trapGetc | .trapOut
  | .trapPuts | .trapIn | .trapPutsp | .trapHalt | .trapUndefined _ => none

/-- The instructions that write R7 by fixed index (R22). -/
def linksR7 : Instr → Bool
  | .jsr _ | .jsrr _ | .trapGetc | .trapOut | .trapPuts | .trapIn | .trapPutsp | .trapHalt | .trapUndefined _ => true
  | .br _ _ | .addReg _ _ _ | .addImm _ _ _ | .ld _ _ | .st _ _ | .andReg _ _ _ | .andImm _ _ _ | .ldr _ _ _
  | .str _ _ _ | .rti | .notReg _ _ | .ldi _ _ | .sti _ _ | .jmp _ | .res | .lea _ _ => false

end Sys2Proof.Machine
end

