-- ==== Sys2Proof/Certificates/Slice0/Obligations.lean ====
section
/-!
DEFINITION. The statements for the provers. `exec i s` is the dispatch part of a step: `s` is the state after the
fetch, with pc already incremented (00_scope.md R9). Sign extension is written with the library's
`BitVec.signExtend`, not with the model's `sext`, and the flags with `FlagsTell`, not with `ccOf`.
-/
open Sys2Proof Sys2Proof.Machine

/-! ## Operate -/

/-- R123: "imm5 mode: dst = r1 + sign_extend(imm5,5); register mode: dst = r1 + r2(2:0). Update flags(dst)."; no
exception, no memory, nothing else changed. -/
def Obligations.AddWritesSumAndFlags : Prop :=
  (∀ (dr sr1 sr2 : RegIdx) (s : State), ∃ t, exec (.addReg dr sr1 sr2) s = .next t ∧
    t.x dr = s.x sr1 + s.x sr2 ∧ FlagsTell (t.x dr) t.cc ∧ OnlyResult dr s t) ∧
  ∀ (dr sr1 : RegIdx) (imm5 : BitVec 5) (s : State), ∃ t, exec (.addImm dr sr1 imm5) s = .next t ∧
    t.x dr = s.x sr1 + imm5.signExtend 16 ∧ FlagsTell (t.x dr) t.cc ∧ OnlyResult dr s t

/-- R124: "Bitwise AND instead of addition; same mode dispatch; update flags(dst)." -/
def Obligations.AndWritesConjunctionAndFlags : Prop :=
  (∀ (dr sr1 sr2 : RegIdx) (s : State), ∃ t, exec (.andReg dr sr1 sr2) s = .next t ∧
    t.x dr = s.x sr1 &&& s.x sr2 ∧ FlagsTell (t.x dr) t.cc ∧ OnlyResult dr s t) ∧
  ∀ (dr sr1 : RegIdx) (imm5 : BitVec 5) (s : State), ∃ t, exec (.andImm dr sr1 imm5) s = .next t ∧
    t.x dr = s.x sr1 &&& imm5.signExtend 16 ∧ FlagsTell (t.x dr) t.cc ∧ OnlyResult dr s t

/-- R125: "dst = bitwise complement of r1; update flags(dst)."; the complement is "equal to `0xFFFF - a`" (R120). -/
def Obligations.NotWritesComplementAndFlags : Prop :=
  ∀ (dr sr : RegIdx) (s : State), ∃ t, exec (.notReg dr sr) s = .next t ∧
    (t.x dr).toNat = 0xFFFF - (s.x sr).toNat ∧ FlagsTell (t.x dr) t.cc ∧ OnlyResult dr s t

/-- R128: "ADD and AND each behave identically whether operands come from the immediate or register path, given equal
effective operand values." -/
def Obligations.ModesAgreeOnEqualOperands : Prop :=
  ∀ (dr sr1 sr2 : RegIdx) (imm5 : BitVec 5) (s : State), s.x sr2 = imm5.signExtend 16 →
    exec (.addImm dr sr1 imm5) s = exec (.addReg dr sr1 sr2) s ∧
    exec (.andImm dr sr1 imm5) s = exec (.andReg dr sr1 sr2) s

/-- R28: `setcc(i)`, its three exclusive cases over all words, and nothing but `cc` changed. -/
def Obligations.SetccTellsTheSign : Prop :=
  ∀ (s : State) (i : RegIdx), FlagsTell (s.x i) (s.setcc i).cc ∧ s.setcc i = { s with cc := (s.setcc i).cc }

/-- R86: `sext_N`: for every width 1..16 the word has the field's two's-complement value: "if bit (n-1) of v is 1,
result = v | (0xFFFF << n) truncated to 16 bits; else result = v". -/
def Obligations.SextIsTwosComplement : Prop :=
  ∀ n, 1 ≤ n → n ≤ 16 → ∀ v : BitVec n,
    (sext v).toInt = v.toInt ∧
    (v.toNat < 2 ^ (n - 1) → (sext v).toNat = v.toNat) ∧
    (2 ^ (n - 1) ≤ v.toNat → (sext v).toNat = v.toNat + (2 ^ 16 - 2 ^ n))

/-! ## Control transfer -/

/-- R142: "BR branches if and only if the encoded condition mask and the current Condition Code share at least one set
bit."; the target is pc + sext_9(offset9); nothing else changes. -/
def Obligations.BrBranchesIffMaskMeetsCc : Prop :=
  ∀ (cond : BitVec 3) (offset9 : BitVec 9) (s : State), ∃ t, exec (.br cond offset9) s = .next t ∧
    ((∃ k < 3, cond.getLsbD k = true ∧ s.cc.getLsbD k = true) → t.pc = s.pc + offset9.signExtend 16) ∧
    ((¬ ∃ k < 3, cond.getLsbD k = true ∧ s.cc.getLsbD k = true) → t.pc = s.pc) ∧
    t = { s with pc := t.pc }

/-- The eight masks of 41_control.md's table: bit 11 tests Negative, bit 10 Zero, bit 9 Positive. Rests on the flag
values of decision D3 (log entry 3), which the source does not give. -/
def Obligations.BrMaskBitsTestTheirFlags : Prop :=
  ∀ (n z p : Bool) (offset9 : BitVec 9) (s : State) (f : Flag), s.cc = f.code →
    ∃ t, exec (.br (BitVec.ofBool n ++ BitVec.ofBool z ++ BitVec.ofBool p) offset9) s = .next t ∧
      t.pc = if (match f with | .negative => n | .zero => z | .positive => p) then s.pc + offset9.signExtend 16
        else s.pc

/-- R144: "PC = r1."; nothing else changes. -/
def Obligations.JmpSetsPcToBase : Prop :=
  ∀ (baseR : RegIdx) (s : State), exec (.jmp baseR) s = .next { s with pc := s.x baseR }

/-- R145: "R7 = current PC (already incremented past this instruction)", then "PC += sign_extend(offset11(10:0),11)";
`cc` is unchanged. -/
def Obligations.JsrLinksAndJumps : Prop :=
  ∀ (offset11 : BitVec 11) (s : State), ∃ t, exec (.jsr offset11) s = .next t ∧
    t.x R7 = s.pc ∧ t.pc = s.pc + offset11.signExtend 16 ∧ OnlyLinkAndPc s t

/-- 41_control.md, JSRR: R7 <- pc, then pc <- the base register as read after that write, so that JSRR R7 falls
through. The case of R7 rests on decision D18 (log entry 18). -/
def Obligations.JsrrLinksThenReadsBase : Prop :=
  ∀ (baseR : RegIdx) (s : State), ∃ t, exec (.jsrr baseR) s = .next t ∧
    t.x R7 = s.pc ∧ (baseR ≠ R7 → t.pc = s.x baseR) ∧ (baseR = R7 → t.pc = s.pc) ∧ OnlyLinkAndPc s t

/-! ## Loads, stores and LEA -/

/-- R160, R162: the destination holds `MemRead(ea, 1)`, the flags are told from it, and nothing else differs from the
state the read left. -/
def Obligations.LdAndLdrLoadTheirWord : Prop :=
  (∀ (dr : RegIdx) (offset9 : BitVec 9) (s : State), ∃ t, exec (.ld dr offset9) s = .next t ∧
    t.x dr = (s.memRead (s.pc + offset9.signExtend 16)).1 ∧ FlagsTell (t.x dr) t.cc ∧
    OnlyResult dr (s.memRead (s.pc + offset9.signExtend 16)).2 t) ∧
  ∀ (dr baseR : RegIdx) (offset6 : BitVec 6) (s : State), ∃ t, exec (.ldr dr baseR offset6) s = .next t ∧
    t.x dr = (s.memRead (s.x baseR + offset6.signExtend 16)).1 ∧ FlagsTell (t.x dr) t.cc ∧
    OnlyResult dr (s.memRead (s.x baseR + offset6.signExtend 16)).2 t

/-- R161: "dst = Memory.read(Memory.read(PC + sign_extend(offset9,9)))", the second read in the state the first left;
"update flags(dst)". -/
def Obligations.LdiReadsThePointerThenTheWord : Prop :=
  ∀ (dr : RegIdx) (offset9 : BitVec 9) (s : State), ∃ t, exec (.ldi dr offset9) s = .next t ∧
    ∃ p u, s.memRead (s.pc + offset9.signExtend 16) = (p, u) ∧
      t.x dr = (u.memRead p).1 ∧ FlagsTell (t.x dr) t.cc ∧ OnlyResult dr (u.memRead p).2 t

/-- R163: "dst = PC + sign_extend(offset9,9) (address, not memory contents); update flags(dst)."; no read occurs. -/
def Obligations.LeaWritesTheAddress : Prop :=
  ∀ (dr : RegIdx) (offset9 : BitVec 9) (s : State), ∃ t, exec (.lea dr offset9) s = .next t ∧
    t.x dr = s.pc + offset9.signExtend 16 ∧ FlagsTell (t.x dr) t.cc ∧ OnlyResult dr s t

/-- R164, R166: the word at the computed address becomes the source register's value (in a memory in canonical form);
nothing else changes, no read, no flag. -/
def Obligations.StAndStrStoreTheirWord : Prop :=
  (∀ (sr : RegIdx) (offset9 : BitVec 9) (s : State), ∃ t, exec (.st sr offset9) s = .next t ∧
    (s.mem.wf = true → t.mem.read (s.pc + offset9.signExtend 16) = s.x sr) ∧
    OnlyStores [s.pc + offset9.signExtend 16] s t) ∧
  ∀ (sr baseR : RegIdx) (offset6 : BitVec 6) (s : State), ∃ t, exec (.str sr baseR offset6) s = .next t ∧
    (s.mem.wf = true → t.mem.read (s.x baseR + offset6.signExtend 16) = s.x sr) ∧
    OnlyStores [s.x baseR + offset6.signExtend 16] s t

/-- R165: "Memory.write(Memory.read(PC + sign_extend(offset9,9)), r0)": the pointer is read, then the word it names is
written, in the state the read left. -/
def Obligations.StiStoresThroughThePointer : Prop :=
  ∀ (sr : RegIdx) (offset9 : BitVec 9) (s : State), ∃ t, exec (.sti sr offset9) s = .next t ∧
    ∃ p u, s.memRead (s.pc + offset9.signExtend 16) = (p, u) ∧
      (s.mem.wf = true → t.mem.read p = s.x sr) ∧ OnlyStores [p] u t

/-- 20_memory.md sections 2 and 3, over ALL instructions: the words outside the address stored to (`storesOf`) read as
before, but for the two keyboard words where the instruction reads `KBSR_ADDR`; where it does not, no input is touched
either, except the byte GETC and IN consume. That PUTS and PUTSP poll nothing and leave both keyboard words rests on
decision D12 (log entry 12); that GETC and IN answer a next state on an empty stream, on log entry 15. -/
def Obligations.MemoryAndInputFrameOfEveryInstruction : Prop :=
  ∀ (i : Instr) (s : State), ∃ t, exec i s = .next t ∧
    SameMemBut (s.params.kbsrAddr :: s.params.kbdrAddr :: storesOf s i) s t ∧
    (s.params.kbsrAddr ∉ readsOf s i →
      SameMemBut (storesOf s i) s t ∧ t.keyAnswers = s.keyAnswers ∧ t.polls = s.polls ∧
      (i ≠ .trapGetc → i ≠ .trapIn → t.input = s.input))

/-! ## The memory interface -/

/-- R55: `MemWrite`: "unconditionally replaces the stored word. No side effects other than plain storage, even for the
reserved I/O addresses". -/
def Obligations.MemWriteIsPlainStorage : Prop :=
  ∀ (s : State) (a v : Word), s.mem.wf = true →
    (s.memWrite a v).mem.read a = v ∧ (s.memWrite a v).mem.wf = true ∧
    OnlyStores [a] s (s.memWrite a v)

/-- 20_memory.md section 2: a read of an address other than `KBSR_ADDR`, `KBDR_ADDR` among them, returns the stored
word and changes nothing. -/
def Obligations.OtherReadsArePlain : Prop :=
  ∀ (s : State) (a : Word), a ≠ s.params.kbsrAddr → s.memRead a = (s.mem.read a, s)

/-- 20_memory.md section 2: a read of `KBSR_ADDR`: ready, 0x8000 in KBSR and the next byte, zero-extended, in KBDR, and
one byte consumed; not ready, 0x0000 in KBSR. The whole-word values rest on decision D5 (log entry 5). -/
def Obligations.StatusReadPollsTheKeyboard : Prop :=
  ∀ (s t : State) (v : Word), s.mem.wf = true → s.params.legal = true → s.memRead s.params.kbsrAddr = (v, t) →
    (s.keyReady = true → ∃ c rest, s.input = c :: rest ∧ t.input = rest ∧ v = 0x8000 ∧
      t.mem.read s.params.kbsrAddr = 0x8000 ∧ (t.mem.read s.params.kbdrAddr).toNat = c.toNat) ∧
    (s.keyReady = false → t.input = s.input ∧ v = 0x0000 ∧
      t.mem.read s.params.kbsrAddr = 0x0000 ∧ t.mem.read s.params.kbdrAddr = s.mem.read s.params.kbdrAddr) ∧
    SameMemBut [s.params.kbsrAddr, s.params.kbdrAddr] s t ∧ SameRegsBut [] s t ∧ t.pc = s.pc ∧ t.cc = s.cc ∧
    t.output = s.output ∧ SameControl s t

/-- 60_exceptions.md section 6: `key_available()` answers true only with a byte waiting, and with one waiting the host
may give either answer (here by its script). Decision D16 (log entry 16). -/
def Obligations.KeyAvailableNeedsInputAndAdmitsBoth : Prop :=
  (∀ s : State, s.keyReady = true → s.input ≠ []) ∧
  ∀ (s : State) (b : Bool) (bs : List Bool), s.input ≠ [] → s.keyAnswers = b :: bs → s.keyReady = b

/-- 70_reset_and_hazards.md section 3: two status reads in a row, a key available each time, consume two bytes and
leave only the second in KBDR. Rests on D5 and D16 (log entries 5, 16). -/
def Obligations.SecondStatusReadOverwritesKbdr : Prop :=
  ∀ (s : State) (c1 c2 : Byte) (rest : List Byte) (bs : List Bool), s.mem.wf = true → s.params.legal = true →
    s.input = c1 :: c2 :: rest → s.keyAnswers = true :: true :: bs →
    let u := ((s.memRead s.params.kbsrAddr).2.memRead s.params.kbsrAddr).2
    u.input = rest ∧ (u.mem.read s.params.kbdrAddr).toNat = c2.toNat ∧ u.keyAnswers = bs

/-- 70_reset_and_hazards.md section 3, two paths to one input: after a status read took a byte, GETC takes the next one
of the stream, and KBDR keeps the first. Rests on D5 and D16. -/
def Obligations.GetcTakesTheByteAfterTheOneInKbdr : Prop :=
  ∀ (s : State) (c1 c2 : Byte) (rest : List Byte) (bs : List Bool), s.mem.wf = true → s.params.legal = true →
    s.input = c1 :: c2 :: rest → s.keyAnswers = true :: bs →
    ∃ t, exec .trapGetc (s.memRead s.params.kbsrAddr).2 = .next t ∧
      (t.x R0).toNat = c2.toNat ∧ (t.mem.read s.params.kbdrAddr).toNat = c1.toNat ∧ t.input = rest

/-- 20_memory.md, self-modifying code: a word stored by ST is what the next fetch from its address returns. -/
def Obligations.FetchSeesTheStoredWord : Prop :=
  ∀ (sr : RegIdx) (offset9 : BitVec 9) (s : State), s.mem.wf = true →
    s.pc + offset9.signExtend 16 ≠ s.params.kbsrAddr →
    ∃ t, exec (.st sr offset9) s = .next t ∧ (t.setPc (s.pc + offset9.signExtend 16)).fetch.1 = s.x sr

/-! ## TRAP -/

/-- R190: "R7 = current PC; dispatch to Trap Dispatcher": for every vector R7 holds pc after the step, pc is not
changed, and only GETC and IN write another register (R0); no routine writes memory. For PUTS and PUTSP over a string
that contains `KBSR_ADDR` the unchanged memory rests on decision D12 (log entry 12); the next state of GETC and IN on an
empty stream is the blocked one of log entry 15. -/
def Obligations.EveryTrapLinksR7AndKeepsPc : Prop :=
  ∀ (i : Instr) (s : State), isTrap i = true → ∃ t, exec i s = .next t ∧
    TrapFrame (if i = .trapGetc ∨ i = .trapIn then [R0] else []) s t

/-- R191: GETC with a byte waiting: R0 is the byte zero-extended, the flags Zero or Positive; nothing is written. -/
def Obligations.GetcReadsOneByte : Prop :=
  ∀ (s : State) (c : Byte) (rest : List Byte), s.input = c :: rest →
    ∃ t, exec .trapGetc s = .next t ∧ (t.x R0).toNat = c.toNat ∧ (c = 0 → t.cc = FL_Z) ∧ (c ≠ 0 → t.cc = FL_P) ∧
      t.input = rest ∧ t.output = s.output ∧ TrapFrame [R0] s t ∧ SameControl s t ∧
      t.keyAnswers = s.keyAnswers ∧ t.polls = s.polls

/-- R192: OUT: "write the low byte of R0 to the external output capability; flush." -/
def Obligations.OutWritesLowByteOfR0 : Prop :=
  ∀ s : State, ∃ t, exec .trapOut s = .next t ∧
    (∃ b : Byte, b.toNat = (s.x R0).toNat % 256 ∧ t.output = s.output ++ [.char b, .flush]) ∧
    t.cc = s.cc ∧ TrapFrame [] s t ∧ SameControl s t ∧ SameInput s t

/-- 43_trap.md, PUTS on a string that ends at or before 0xFFFF: the low byte of each word before the first zero word,
then a flush; nothing else. The raw reads, which poll no keyboard, are decision D12 (log entry 12). -/
def Obligations.PutsWritesTheString : Prop :=
  ∀ (s : State) (k : Nat), StringAt s.mem (s.x R0) k → ∃ t, exec .trapPuts s = .next t ∧
    t.output = s.output ++ (stringWords s.mem (s.x R0) k).map (fun (w : Word) => .char (w.setWidth 8)) ++ [.flush] ∧
    t.cc = s.cc ∧ TrapFrame [] s t ∧ SameControl s t ∧ SameInput s t

/-- 43_trap.md, PUTSP on such a string: each word's low byte, even if zero, then its high byte if not zero. The
raw reads, which poll no keyboard, are decision D12 (log entry 12). -/
def Obligations.PutspWritesThePackedString : Prop :=
  ∀ (s : State) (k : Nat), StringAt s.mem (s.x R0) k → ∃ t, exec .trapPutsp s = .next t ∧
    t.output = s.output ++ ((stringWords s.mem (s.x R0) k).flatMap (fun (w : Word) =>
      if w.toNat < 256 then [w.setWidth 8] else [w.setWidth 8, (w >>> 8).setWidth 8])).map .char ++ [.flush] ∧
    t.cc = s.cc ∧ TrapFrame [] s t ∧ SameControl s t ∧ SameInput s t

/-- 43_trap.md, PUTS and PUTSP with no zero word up to 0xFFFF: the characters are written, nothing is flushed, and the
run is aborted with StringOverrun. Decision D13 (log entry 13). That the reads are raw, so that a scan across
`KBSR_ADDR` polls nothing and leaves memory and input, is decision D12 (log entry 12). -/
def Obligations.StringOverrunAborts : Prop :=
  ∀ s : State, NoStringAt s.mem (s.x R0) →
    (∃ t, exec .trapPuts s = .next t ∧ t.run = .aborted .stringOverrun ∧
      t.output = s.output ++
        (stringWords s.mem (s.x R0) (65536 - (s.x R0).toNat)).map (fun (w : Word) => .char (w.setWidth 8)) ∧
      t.cc = s.cc ∧ t.wait = s.wait ∧ TrapFrame [] s t ∧ SameInput s t) ∧
    ∃ t, exec .trapPutsp s = .next t ∧ t.run = .aborted .stringOverrun ∧
      t.output = s.output ++
        ((stringWords s.mem (s.x R0) (65536 - (s.x R0).toNat)).flatMap (fun (w : Word) =>
          if w.toNat < 256 then [w.setWidth 8] else [w.setWidth 8, (w >>> 8).setWidth 8])).map .char ∧
      t.cc = s.cc ∧ t.wait = s.wait ∧ TrapFrame [] s t ∧ SameInput s t

/-- 43_trap.md, IN with a byte waiting: the prompt and the echo are written and flushed, R0 and the flags as GETC. The
flush rests on decision D23 (log entry 22). -/
def Obligations.InPromptsReadsAndEchoes : Prop :=
  ∀ (s : State) (c : Byte) (rest : List Byte), s.input = c :: rest →
    ∃ t, exec .trapIn s = .next t ∧ (t.x R0).toNat = c.toNat ∧ (c = 0 → t.cc = FL_Z) ∧ (c ≠ 0 → t.cc = FL_P) ∧
      t.input = rest ∧ t.output = s.output ++ s.params.inPrompt.map .char ++ [.char c, .flush] ∧
      TrapFrame [R0] s t ∧ SameControl s t ∧ t.keyAnswers = s.keyAnswers ∧ t.polls = s.polls

/-- R196: HALT: "emit a halt notice, flush output, signal the Run Loop to terminate."; "no further fetch occurs". -/
def Obligations.HaltWritesNoticeAndHalts : Prop :=
  ∀ s : State, ∃ t, exec .trapHalt s = .next t ∧ t.run = .halted ∧
    t.output = s.output ++ s.params.haltNotice.map .char ++ [.flush] ∧ t.cc = s.cc ∧ t.wait = s.wait ∧
    TrapFrame [] s t ∧ SameInput s t ∧ ∀ u, step t ≠ .next u

/-- 43_trap.md section 3: an undefined vector: R7 <- pc, then the run is aborted with IllegalTrap; no input, no output,
nothing else. Decision D11 (log entry 11). -/
def Obligations.UndefinedVectorAborts : Prop :=
  ∀ (v : BitVec 8) (s : State), ∃ t, exec (.trapUndefined v) s = .next t ∧ t.run = .aborted .illegalTrap ∧
    t.cc = s.cc ∧ t.output = s.output ∧ t.wait = s.wait ∧ TrapFrame [] s t ∧ SameInput s t

/-- 60_exceptions.md section 6: GETC and IN on an empty stream: the step is blocked, `run` unchanged, R7 written, R0
and `cc` not, IN's prompt written; and once the host supplies bytes the next step leaves the very state that the
instruction leaves when they were there before it. Decision D15; the form of the blocked state is the model's (log
entry 15). -/
def Obligations.BlockedReadCompletesWhenInputArrives : Prop :=
  ∀ (i : Instr) (s : State) (c : Byte) (rest : List Byte), i = .trapGetc ∨ i = .trapIn → s.run = .running →
    s.wait = none → s.input = [] →
    ∃ t, exec i s = .next t ∧ t.wait ≠ none ∧ t.run = .running ∧ t.cc = s.cc ∧ t.x R0 = s.x R0 ∧ t.x R7 = s.pc ∧
      t.output = (if i = .trapIn then s.output ++ s.params.inPrompt.map .char else s.output) ∧
      step t = .next t ∧
      step (t.supplyInput (c :: rest)) = exec i (s.supplyInput (c :: rest))

/-! ## The fatal path and the end of a run -/

/-- 44_illegal.md, RES and RTI: "raise IllegalOpcode"; "nothing is changed by the instruction" but `run`. The fatal
policy is decision D10 (log entry 10): the source lets an implementer skip them instead. -/
def Obligations.ResAndRtiAbort : Prop :=
  ∀ s : State, exec .res s = .next { s with run := .aborted .illegalOpcode } ∧
    exec .rti s = .next { s with run := .aborted .illegalOpcode }

/-- 10_state.md section 4: "A step exists only in `Running`; `Halted` and `Aborted(_)` have no successor." The fault
that stands for this is the model's (log entry 23). That EVERY running state answers a next state is the model's too
(log entry 15): in the spec the step of a GETC or IN on an empty stream does not complete. -/
def Obligations.NoStepAfterTheEnd : Prop :=
  ∀ s : State, (s.run = .halted → step s = .fault .noStepHalted) ∧
    (∀ c, s.run = .aborted c → step s = .fault (.noStepAborted c)) ∧
    (s.run = .running → ∃ t, step s = .next t)

/-- 70_reset_and_hazards.md section 2: "Running→Halted only via the HALT trap". `wait`, the blocked
read that such a step does not go on with, is the model's (log entry 15). -/
def Obligations.OnlyHaltHalts : Prop :=
  ∀ s t : State, step s = .next t → t.run = .halted → s.wait = none ∧ decode s.fetch.1 = .trapHalt

/-- 60_exceptions.md section 1 and section 3: which step raises which cause: IllegalOpcode only RES and RTI,
IllegalTrap only an undefined vector, StringOverrun only PUTS and PUTSP with no terminator, ExternalCancel none. The causes follow decisions D10, D11, D13 and
D19 (log entries 10, 11, 13, 19); `wait` is the model's (log entry 15). -/
def Obligations.AbortCauseNamesItsInstruction : Prop :=
  ∀ (s t : State) (c : Cause), step s = .next t → t.run = .aborted c →
    s.wait = none ∧ match c with
      | .illegalOpcode => decode s.fetch.1 = .res ∨ decode s.fetch.1 = .rti
      | .illegalTrap => ∃ v, decode s.fetch.1 = .trapUndefined v
      | .stringOverrun =>
        (decode s.fetch.1 = .trapPuts ∨ decode s.fetch.1 = .trapPutsp) ∧ NoStringAt t.mem (t.x R0)
      | .externalCancel => False

/-- 60_exceptions.md section 2: external cancellation of a running or blocked run: aborted with ExternalCancel, the
core's registers, memory and streams as they stood, and no further step. Decision D19 (log entry 19). -/
def Obligations.CancelEndsTheRun : Prop :=
  ∀ s : State, (s.run = .running → s.cancel = { s with run := .aborted .externalCancel, wait := none }) ∧
    (s.run ≠ .running → s.cancel = s) ∧ ∀ t, step s.cancel ≠ .next t

/-! ## The step and the whole machine -/

/-- R264: one step in a running, unblocked state: `ir <- MemRead(pc, 1)`, `pc <- pc + 1`, decode, dispatch; away from
`KBSR_ADDR` the word is the stored one and the fetch changes nothing but pc; a step is taken only in `Running`. -/
def Obligations.StepRunsTheDecodedInstruction : Prop :=
  (∀ (s u : State) (ir : Word), s.run = .running → s.wait = none → s.memRead s.pc = (ir, u) →
    step s = exec (decode ir) { u with pc := s.pc + 1 }) ∧
  (∀ (s : State) (i : Instr), s.run = .running → s.wait = none → s.pc ≠ s.params.kbsrAddr →
    decode (s.mem.read s.pc) = i → step s = exec i { s with pc := s.pc + 1 }) ∧
  ∀ s t : State, step s = .next t → s.run = .running

/-- 20_memory.md section 2: a fetch from `KBSR_ADDR` polls and executes the word it wrote: 0x8000 is RTI, fatal;
0x0000 is BR with a zero mask, which does nothing. Rests on D1 and D5 (log entries 1, 5). -/
def Obligations.FetchAtKbsrExecutesThePoll : Prop :=
  ∀ s : State, s.run = .running → s.wait = none → s.pc = s.params.kbsrAddr → s.mem.wf = true →
    s.params.legal = true → ∃ t, step s = .next t ∧ t.pc = s.pc + 1 ∧ SameRegsBut [] s t ∧ t.cc = s.cc ∧
      (s.keyReady = true → t.run = .aborted .illegalOpcode ∧ ∃ c, s.input = c :: t.input) ∧
      (s.keyReady = false → t.run = .running ∧ t.input = s.input ∧ t.mem.read s.pc = 0)

/-- 10_state.md section 2: after a step that runs no control transfer pc is the fetched address plus one, modulo
65536. -/
def Obligations.PcAdvancesByOneModulo65536 : Prop :=
  ∀ s t : State, s.wait = none → step s = .next t → isControlTransfer (decode s.fetch.1) = false →
    t.pc.toNat = (s.pc.toNat + 1) % 65536

/-- R22, R20: which general register an instruction can change: the one its r0 field names as destination, R7 for JSR,
JSRR and TRAP, R0 for GETC and IN; no other. The next state of GETC and IN on an empty stream is the blocked one of log
entry 15. -/
def Obligations.OnlyTheNamedRegisterChanges : Prop :=
  ∀ (i : Instr) (s : State), ∃ t, exec i s = .next t ∧ ∀ r, t.x r ≠ s.x r →
    resultReg i = some r ∨ (linksR7 i = true ∧ r = R7) ∨ ((i = .trapGetc ∨ i = .trapIn) ∧ r = R0)

/-- 10_state.md section 3: what writes `cc`: exactly the instructions that define a result register, from that register,
and GETC and IN from R0 once they have read; no other changes it. The clause for GETC and IN on an empty stream speaks
of the blocked state, whose form is the model's (log entry 15). -/
def Obligations.CcIsWrittenByResultsOnly : Prop :=
  ∀ (i : Instr) (s : State), ∃ t, exec i s = .next t ∧
    (∀ dr, resultReg i = some dr → FlagsTell (t.x dr) t.cc) ∧
    (i = .trapGetc ∨ i = .trapIn → s.input ≠ [] → FlagsTell (t.x R0) t.cc) ∧
    (i = .trapGetc ∨ i = .trapIn → s.input = [] → t.cc = s.cc) ∧
    (resultReg i = none → i ≠ .trapGetc → i ≠ .trapIn → t.cc = s.cc)

/-- 10_state.md section 3: only BR reads `cc`: for every other instruction two states that differ in `cc` alone lead to
states that differ in `cc` at most. The next state of GETC and IN on an empty stream is the blocked one of log entry
15. -/
def Obligations.OnlyBrReadsCc : Prop :=
  ∀ (i : Instr) (s : State) (c : Word), (∀ cond o, i ≠ .br cond o) →
    ∃ t c', exec i s = .next t ∧ exec i { s with cc := c } = .next { t with cc := c' }

/-- 60_exceptions.md section 6 (`write_char`, `read_char`): a step only appends to the output, only consumes a front
part of the input, and never changes a launch parameter. -/
def Obligations.StreamsOnlyMoveForward : Prop :=
  ∀ s t : State, step s = .next t →
    (∃ written, t.output = s.output ++ written) ∧ (∃ used, s.input = used ++ t.input) ∧ t.params = s.params

/-- R20, R21: the register file of ten registers: a register reads what was last written to it, and a write leaves the
nine others and everything that is not a register. -/
def Obligations.RegisterFileReadsLastWrite : Prop :=
  ∀ (s : State) (i j : Fin 10) (v : Word),
    (s.rfSet i v).rfGet j = (if j = i then v else s.rfGet j) ∧
    (∀ r : RegIdx, s.rfGet ⟨r.val, by omega⟩ = s.x r) ∧ s.rfGet 8 = s.pc ∧ s.rfGet 9 = s.cc ∧
    s.rfSet i v = { s with
      regs := (s.rfSet i v).regs
      pc := (s.rfSet i v).pc
      cc := (s.rfSet i v).cc }

/-- 30_encoding.md section 8: the datapath steered by the control word of the table of selections does what the
instructions' own rules do, the trap routine or the fatal path following its pass. The next state of GETC and IN on an
empty stream is the blocked one of log entry 15. -/
def Obligations.DatapathAgreesWithExec : Prop :=
  ∀ (i : Instr) (s : State), exec i s = .next (afterDatapath i (datapath (controlWord i) s))

/-! ## Reset and the invariant -/

/-- R36, R40: at reset pc = 0x3000, `run` = Running, the input stream is the host's and the output stream is empty, for
every choice of what the spec leaves to the launch. -/
def Obligations.ResetStartsAt3000Running : Prop :=
  (∀ l : Launch, (State.launch l).pc = 0x3000 ∧ (State.launch l).run = .running ∧ (State.launch l).input = l.input ∧
    (State.launch l).output = []) ∧
  State.reset.pc = 0x3000 ∧ State.reset.run = .running ∧ State.reset.output = []

/-- 10_state.md section 6, the model's choices at reset, which the spec suggests as defaults and does not vouch for
(log entries 4, 7, 8, 9, 28): registers 0, `cc` Zero, every memory word 0, keyboard at 0xFE00 and 0xFE02, no input. -/
def Obligations.ResetTakesTheDefaults : Prop :=
  (∀ r, State.reset.x r = 0) ∧ State.reset.cc = FL_Z ∧ (∀ a, State.reset.mem.read a = 0) ∧
  State.reset.params.kbsrAddr = 0xFE00 ∧ State.reset.params.kbdrAddr = 0xFE02 ∧ State.reset.input = []

/-- The invariant holds at reset, and at every launch whose memory is in canonical form and whose keyboard addresses
differ. That `cc` is one of the three flags there rests on decision D8 (log entry 8, unsafe), which the type of
`Launch.cc` builds in; the canonical form and the blocked read are the model's (log entries 24, 15). -/
def Obligations.InvHoldsAtLaunch : Prop :=
  State.reset.Inv ∧ ∀ l : Launch, l.mem.wf = true → l.params.legal = true → (State.launch l).Inv

/-- Every step keeps the invariant: memory canonical, `cc` exactly one of the three flags ("never zero flags, never
multiple"), the keyboard addresses distinct, a blocked read only in a running state with R7 = pc. The canonical form and
the blocked read are the model's (log entries 24, 15). -/
def Obligations.StepKeepsInv : Prop :=
  ∀ s t : State, s.Inv → step s = .next t → t.Inv

/-- 10_state.md section 3 (the NZP invariant): in every state that steps and host actions reach from a legal launch the
invariant holds, so `cc` is exactly one of the three flags. Before the first flag update this rests on decision D8 (log
entry 8, unsafe); cancelling is decision D19 (log entry 19), and the canonical form and the blocked read are the model's
(log entries 24, 15). -/
def Obligations.EveryReachableStateHasOneFlag : Prop :=
  ∀ (l : Launch) (t : State), l.mem.wf = true → l.params.legal = true → Reaches (State.launch l) t →
    t.Inv ∧ ∃ f : Flag, t.cc = f.code ∧ ∀ g : Flag, t.cc = g.code → g = f

/-- 70_reset_and_hazards.md section 1: an image that fits: after it is loaded, the word at origin + j is the file's
word j, every word outside it is as before, and the memory keeps its canonical form. -/
def Obligations.LoadedImageIsInMemory : Prop :=
  ∀ (m : Memory) (origin : Word) (ws : List Word), m.wf = true → origin.toNat + ws.length ≤ 65536 →
    ∃ m', loadImage m (imageBytes (origin :: ws)) = some m' ∧ m'.wf = true ∧
      (∀ j (h : j < ws.length), m'.read (origin + BitVec.ofNat 16 j) = ws[j]) ∧
      ∀ a : Word, a.toNat < origin.toNat ∨ origin.toNat + ws.length ≤ a.toNat → m'.read a = m.read a

/-- The model's own placing of a word where the next step fetches (log entry 26): away from `KBSR_ADDR` the very next
step runs exactly that instruction. -/
def Obligations.WithFetchWordRunsThatWord : Prop :=
  ∀ (s : State) (w : Word), s.mem.wf = true → s.pc ≠ s.params.kbsrAddr →
    step (s.withFetchWord 16 w.toNat) =
      exec (decode w) { s.memWrite s.pc w with run := .running, wait := none, pc := s.pc + 1 }

/-! ## Encoding (all of it rests on decisions D1 and D2: log entries 1, 2) -/

/-- 30_encoding.md: decoding an encoded well-formed instruction gives it back, with every operand at every value. -/
def Obligations.DecodeEncodeRoundTrip : Prop :=
  ∀ i : Instr, i.wf = true → decode (encode i) = i

/-- 30_encoding.md section 5: every word decodes to a well-formed instruction, the one of the first row of the
match/mask table that accepts it: the decoder and the table are two readings that agree. -/
def Obligations.DecodeSelectsTheFirstMatchingRow : Prop :=
  ∀ w : Word, (decode w).wf = true ∧ decodeTable.find? (fun r => r.accepts w) = some (decode w).row

/-- 30_encoding.md section 5: the rows are disjoint, but for the last, which overlaps only the six trap rows. -/
def Obligations.TableRowsAreDisjoint : Prop :=
  ∀ (w : Word) (i j : Nat) (hi : i < decodeTable.length) (hj : j < decodeTable.length), i < j →
    decodeTable[i].accepts w = true → decodeTable[j].accepts w = true → 18 ≤ i ∧ j = 24

/-- 30_encoding.md section 6: the bits no field uses have no effect, and every other bit is kept: words that agree on
the used bits of one decode alike, and encoding a decoded word gives back its used bits. -/
def Obligations.ExactlyTheUnusedBitsAreIgnored : Prop :=
  (∀ v w : Word, v &&& (decode w).usedMask = w &&& (decode w).usedMask → decode v = decode w) ∧
  ∀ w : Word, encode (decode w) &&& (decode w).usedMask = w &&& (decode w).usedMask

/-- Words of 95_test_vectors.md, written out from the encodings, and the instructions they stand for. -/
def Obligations.SampleWordsDecode : Prop :=
  decode 0x05FD = .br 0b010 0x1FD ∧ decode 0x14C4 = .addReg 2 3 4 ∧ decode 0x1B7F = .addImm 5 5 0x1F ∧
  decode 0x973F = .notReg 3 4 ∧ decode 0x4802 = .jsr 2 ∧ decode 0x40C0 = .jsrr 3 ∧ decode 0x71BF = .str 0 6 0x3F ∧
  decode 0xF022 = .trapPuts ∧ decode 0xF026 = .trapUndefined 0x26 ∧ decode 0xD000 = .res
end

