-- ==== Sys2Proof/Laws/Decode.lean ====
section
/-!
SUPPORT. The opcode map and its inverse (30_encoding.md R90), and the vectors of R91.
-/
namespace Sys2Proof

theorem opcodeOfNibble_nibbleOfOpcode (op : Opcode) : opcodeOfNibble (nibbleOfOpcode op) = op := by
  cases op <;> rfl

theorem nibbleOfOpcode_opcodeOfNibble (b : BitVec 4) : nibbleOfOpcode (opcodeOfNibble b) = b := by
  revert b; decide

/-- R91: an undefined vector falls through the six tests. -/
theorem decodeTrap_of_wf {v : BitVec 8} (h : (Instr.trapUndefined v).wf = true) : decodeTrap v = .trapUndefined v := by
  revert v; decide

/-- R82: the decoder answers a well-formed instruction: the fields are in range by construction. -/
theorem decodeTrap_wf (v : BitVec 8) : (decodeTrap v).wf = true := by
  revert v; decide

@[simp] theorem regBits_toFin (r : RegIdx) : (regBits r).toFin = r := rfl

/-! ## Fields of an assembled word -/

/-- A field above the last part of a concatenation lies in the rest. -/
theorem extract_high {n m : Nat} (x : BitVec n) (y : BitVec m) (k l : Nat) :
    (x ++ y).extractLsb' (m + k) l = x.extractLsb' k l := by
  ext i hi
  simp [BitVec.getLsbD_append, Nat.add_assoc]

/-- The low field of a concatenation is its last part. -/
theorem extract_last {n m : Nat} (x : BitVec n) (y : BitVec m) : (x ++ y).extractLsb' 0 m = y := by
  ext i hi
  simp [BitVec.getLsbD_append, hi]

theorem extract_all {n : Nat} (x : BitVec n) : x.extractLsb' 0 n = x := by
  ext i hi; simp

theorem getLsbD_eq_extract (w : Word) (k : Nat) : w.getLsbD k = (w.extractLsb' k 1 == 1#1) := by
  rw [show (w.extractLsb' k 1 == 1#1) = (w.extractLsb' k 1).getLsbD 0 by generalize w.extractLsb' k 1 = b; revert b; decide]
  simp

@[simp] theorem fieldOpcode_formatPCM (op : Opcode) (r0 : RegIdx) (o : BitVec 9) : fieldOpcode (formatPCM op r0 o) = nibbleOfOpcode op :=
  ((extract_high _ (o) 3 4).trans ((extract_high _ (regBits r0) 0 4).trans (extract_all _)))
@[simp] theorem fieldR0_formatPCM (op : Opcode) (r0 : RegIdx) (o : BitVec 9) : fieldR0 (formatPCM op r0 o) = r0 :=
  congrArg BitVec.toFin (((extract_high _ (o) 0 3).trans (extract_last _ (regBits r0))) : (formatPCM op r0 o).extractLsb' 9 3 = regBits r0)
@[simp] theorem fieldOffset9_formatPCM (op : Opcode) (r0 : RegIdx) (o : BitVec 9) : fieldOffset9 (formatPCM op r0 o) = o :=
  (extract_last _ (o))
@[simp] theorem fieldOpcode_formatOPR (op : Opcode) (r0 r1 r2 : RegIdx) : fieldOpcode (formatOPR op r0 r1 r2) = nibbleOfOpcode op :=
  ((extract_high _ (regBits r2) 9 4).trans ((extract_high _ (0b00#2) 7 4).trans ((extract_high _ (0b0#1) 6 4).trans ((extract_high _ (regBits r1) 3 4).trans ((extract_high _ (regBits r0) 0 4).trans (extract_all _))))))
@[simp] theorem fieldR0_formatOPR (op : Opcode) (r0 r1 r2 : RegIdx) : fieldR0 (formatOPR op r0 r1 r2) = r0 :=
  congrArg BitVec.toFin (((extract_high _ (regBits r2) 6 3).trans ((extract_high _ (0b00#2) 4 3).trans ((extract_high _ (0b0#1) 3 3).trans ((extract_high _ (regBits r1) 0 3).trans (extract_last _ (regBits r0)))))) : (formatOPR op r0 r1 r2).extractLsb' 9 3 = regBits r0)
@[simp] theorem fieldR1_formatOPR (op : Opcode) (r0 r1 r2 : RegIdx) : fieldR1 (formatOPR op r0 r1 r2) = r1 :=
  congrArg BitVec.toFin (((extract_high _ (regBits r2) 3 3).trans ((extract_high _ (0b00#2) 1 3).trans ((extract_high _ (0b0#1) 0 3).trans (extract_last _ (regBits r1))))) : (formatOPR op r0 r1 r2).extractLsb' 6 3 = regBits r1)
@[simp] theorem fieldMode_formatOPR (op : Opcode) (r0 r1 r2 : RegIdx) : fieldMode (formatOPR op r0 r1 r2) = false := by
  unfold fieldMode
  rw [getLsbD_eq_extract, show (formatOPR op r0 r1 r2).extractLsb' 5 1 = 0b0#1 from ((extract_high _ (regBits r2) 2 1).trans ((extract_high _ (0b00#2) 0 1).trans (extract_last _ (0b0#1))))]; rfl
@[simp] theorem fieldR2_formatOPR (op : Opcode) (r0 r1 r2 : RegIdx) : fieldR2 (formatOPR op r0 r1 r2) = r2 :=
  congrArg BitVec.toFin ((extract_last _ (regBits r2)) : (formatOPR op r0 r1 r2).extractLsb' 0 3 = regBits r2)
@[simp] theorem fieldOpcode_formatOPI (op : Opcode) (r0 r1 : RegIdx) (v : BitVec 5) : fieldOpcode (formatOPI op r0 r1 v) = nibbleOfOpcode op :=
  ((extract_high _ (v) 7 4).trans ((extract_high _ (0b1#1) 6 4).trans ((extract_high _ (regBits r1) 3 4).trans ((extract_high _ (regBits r0) 0 4).trans (extract_all _)))))
@[simp] theorem fieldR0_formatOPI (op : Opcode) (r0 r1 : RegIdx) (v : BitVec 5) : fieldR0 (formatOPI op r0 r1 v) = r0 :=
  congrArg BitVec.toFin (((extract_high _ (v) 4 3).trans ((extract_high _ (0b1#1) 3 3).trans ((extract_high _ (regBits r1) 0 3).trans (extract_last _ (regBits r0))))) : (formatOPI op r0 r1 v).extractLsb' 9 3 = regBits r0)
@[simp] theorem fieldR1_formatOPI (op : Opcode) (r0 r1 : RegIdx) (v : BitVec 5) : fieldR1 (formatOPI op r0 r1 v) = r1 :=
  congrArg BitVec.toFin (((extract_high _ (v) 1 3).trans ((extract_high _ (0b1#1) 0 3).trans (extract_last _ (regBits r1)))) : (formatOPI op r0 r1 v).extractLsb' 6 3 = regBits r1)
@[simp] theorem fieldMode_formatOPI (op : Opcode) (r0 r1 : RegIdx) (v : BitVec 5) : fieldMode (formatOPI op r0 r1 v) = true := by
  unfold fieldMode
  rw [getLsbD_eq_extract, show (formatOPI op r0 r1 v).extractLsb' 5 1 = 0b1#1 from ((extract_high _ (v) 0 1).trans (extract_last _ (0b1#1)))]; rfl
@[simp] theorem fieldImm5_formatOPI (op : Opcode) (r0 r1 : RegIdx) (v : BitVec 5) : fieldImm5 (formatOPI op r0 r1 v) = v :=
  (extract_last _ (v))
@[simp] theorem fieldOpcode_formatBRM (op : Opcode) (r0 r1 : RegIdx) (o : BitVec 6) : fieldOpcode (formatBRM op r0 r1 o) = nibbleOfOpcode op :=
  ((extract_high _ (o) 6 4).trans ((extract_high _ (regBits r1) 3 4).trans ((extract_high _ (regBits r0) 0 4).trans (extract_all _))))
@[simp] theorem fieldR0_formatBRM (op : Opcode) (r0 r1 : RegIdx) (o : BitVec 6) : fieldR0 (formatBRM op r0 r1 o) = r0 :=
  congrArg BitVec.toFin (((extract_high _ (o) 3 3).trans ((extract_high _ (regBits r1) 0 3).trans (extract_last _ (regBits r0)))) : (formatBRM op r0 r1 o).extractLsb' 9 3 = regBits r0)
@[simp] theorem fieldR1_formatBRM (op : Opcode) (r0 r1 : RegIdx) (o : BitVec 6) : fieldR1 (formatBRM op r0 r1 o) = r1 :=
  congrArg BitVec.toFin (((extract_high _ (o) 0 3).trans (extract_last _ (regBits r1))) : (formatBRM op r0 r1 o).extractLsb' 6 3 = regBits r1)
@[simp] theorem fieldOffset6_formatBRM (op : Opcode) (r0 r1 : RegIdx) (o : BitVec 6) : fieldOffset6 (formatBRM op r0 r1 o) = o :=
  (extract_last _ (o))
@[simp] theorem fieldOpcode_formatJMP (r1 : RegIdx) : fieldOpcode (formatJMP r1) = nibbleOfOpcode .jmp :=
  ((extract_high _ (0b000000#6) 6 4).trans ((extract_high _ (regBits r1) 3 4).trans ((extract_high _ (0b000#3) 0 4).trans (extract_all _))))
@[simp] theorem fieldR1_formatJMP (r1 : RegIdx) : fieldR1 (formatJMP r1) = r1 :=
  congrArg BitVec.toFin (((extract_high _ (0b000000#6) 0 3).trans (extract_last _ (regBits r1))) : (formatJMP r1).extractLsb' 6 3 = regBits r1)
@[simp] theorem fieldOpcode_formatBR (c : BitVec 3) (o : BitVec 9) : fieldOpcode (formatBR c o) = nibbleOfOpcode .br :=
  ((extract_high _ (o) 3 4).trans ((extract_high _ (c) 0 4).trans (extract_all _)))
@[simp] theorem fieldCond_formatBR (c : BitVec 3) (o : BitVec 9) : fieldCond (formatBR c o) = c :=
  ((extract_high _ (o) 0 3).trans (extract_last _ (c)))
@[simp] theorem fieldOffset9_formatBR (c : BitVec 3) (o : BitVec 9) : fieldOffset9 (formatBR c o) = o :=
  (extract_last _ (o))
@[simp] theorem fieldOpcode_formatJSR (o : BitVec 11) : fieldOpcode (formatJSR o) = nibbleOfOpcode .jsr :=
  ((extract_high _ (o) 1 4).trans ((extract_high _ (0b1#1) 0 4).trans (extract_all _)))
@[simp] theorem fieldLong_formatJSR (o : BitVec 11) : fieldLong (formatJSR o) = true := by
  unfold fieldLong
  rw [getLsbD_eq_extract, show (formatJSR o).extractLsb' 11 1 = 0b1#1 from ((extract_high _ (o) 0 1).trans (extract_last _ (0b1#1)))]; rfl
@[simp] theorem fieldOffset11_formatJSR (o : BitVec 11) : fieldOffset11 (formatJSR o) = o :=
  (extract_last _ (o))
@[simp] theorem fieldOpcode_formatJSRR (r1 : RegIdx) : fieldOpcode (formatJSRR r1) = nibbleOfOpcode .jsr :=
  ((extract_high _ (0b000000#6) 6 4).trans ((extract_high _ (regBits r1) 3 4).trans ((extract_high _ (0b00#2) 1 4).trans ((extract_high _ (0b0#1) 0 4).trans (extract_all _)))))
@[simp] theorem fieldLong_formatJSRR (r1 : RegIdx) : fieldLong (formatJSRR r1) = false := by
  unfold fieldLong
  rw [getLsbD_eq_extract, show (formatJSRR r1).extractLsb' 11 1 = 0b0#1 from ((extract_high _ (0b000000#6) 5 1).trans ((extract_high _ (regBits r1) 2 1).trans ((extract_high _ (0b00#2) 0 1).trans (extract_last _ (0b0#1)))))]; rfl
@[simp] theorem fieldR1_formatJSRR (r1 : RegIdx) : fieldR1 (formatJSRR r1) = r1 :=
  congrArg BitVec.toFin (((extract_high _ (0b000000#6) 0 3).trans (extract_last _ (regBits r1))) : (formatJSRR r1).extractLsb' 6 3 = regBits r1)
@[simp] theorem fieldOpcode_formatTRAP (v : BitVec 8) : fieldOpcode (formatTRAP v) = nibbleOfOpcode .trap :=
  ((extract_high _ (v) 4 4).trans ((extract_high _ (0b0000#4) 0 4).trans (extract_all _)))
@[simp] theorem fieldTrapvect8_formatTRAP (v : BitVec 8) : fieldTrapvect8 (formatTRAP v) = v :=
  (extract_last _ (v))
@[simp] theorem fieldOpcode_formatILL (op : Opcode) : fieldOpcode (formatILL op) = nibbleOfOpcode op :=
  ((extract_high _ (0x000#12) 0 4).trans (extract_all _))

end Sys2Proof
end

