-- ==== Sys2Proof/Laws/Memory.lean ====
section
/-!
SUPPORT. The memory array: a read after a write, and the canonical form that every write keeps
(20_memory.md R50, R55, R64).
-/
namespace Sys2Proof.Machine.Memory

/-- No address below the bound of `wfFrom` is listed. -/
theorem lookup_below {lo : Nat} {m : Memory} (h : wfFrom lo m = true) {a : Nat} (ha : a < lo) :
    m.lookup a = unlistedWord := by
  induction m generalizing lo with
  | nil => rfl
  | cons c rest ih =>
    obtain ⟨k, v⟩ := c
    simp only [wfFrom, Bool.and_eq_true, decide_eq_true_eq] at h
    have hk : k ≠ a := by omega
    simpa [lookup, hk] using ih h.2 (by omega)

theorem lookup_insert_same {lo : Nat} {m : Memory} (h : wfFrom lo m = true) (a : Nat) (v : Word) :
    (insert m a v).lookup a = v := by
  induction m generalizing lo with
  | nil =>
    by_cases hv : v = unlistedWord
    · simp [insert, hv, lookup]
    · simp [insert, hv, lookup]
  | cons c rest ih =>
    obtain ⟨k, w⟩ := c
    simp only [wfFrom, Bool.and_eq_true, decide_eq_true_eq] at h
    unfold insert
    by_cases h1 : a < k
    · by_cases hv : v = unlistedWord
      · simp only [h1, if_true, hv]
        have hk : k ≠ a := by omega
        simp only [lookup, hk, if_false]
        exact lookup_below h.2 (by omega)
      · simp [h1, hv, lookup]
    · by_cases h2 : a = k
      · by_cases hv : v = unlistedWord
        · simp only [h2, if_true, if_false, hv, Nat.lt_irrefl]
          exact lookup_below h.2 (by omega)
        · simp [h2, hv, lookup]
      · have hk : k ≠ a := fun e => h2 e.symm
        simpa [h1, h2, lookup, hk] using ih h.2

theorem lookup_insert_ne (m : Memory) {a b : Nat} (hab : b ≠ a) (v : Word) :
    (insert m a v).lookup b = m.lookup b := by
  induction m with
  | nil =>
    by_cases hv : v = unlistedWord
    · simp [insert, hv]
    · simp [insert, hv, lookup, hab.symm]
  | cons c rest ih =>
    obtain ⟨k, w⟩ := c
    unfold insert
    by_cases h1 : a < k
    · by_cases hv : v = unlistedWord <;> simp [h1, hv, lookup, hab.symm]
    · by_cases h2 : a = k
      · by_cases hv : v = unlistedWord <;> simp [h2, hv, lookup, h2 ▸ hab.symm]
      · simp [h1, h2, lookup, ih]

theorem wfFrom_insert {lo : Nat} {m : Memory} (h : wfFrom lo m = true) {a : Nat} (ha : lo ≤ a) (ha' : a < 65536)
    (v : Word) : wfFrom lo (insert m a v) = true := by
  induction m generalizing lo with
  | nil =>
    by_cases hv : v = unlistedWord
    · simp [insert, hv, wfFrom]
    · simp [insert, hv, wfFrom, ha, ha']
  | cons c rest ih =>
    obtain ⟨k, w⟩ := c
    simp only [wfFrom, Bool.and_eq_true, decide_eq_true_eq] at h
    obtain ⟨⟨⟨hlo, hk⟩, hw⟩, hrest⟩ := h
    unfold insert
    by_cases h1 : a < k
    · by_cases hv : v = unlistedWord
      · simp [h1, hv, wfFrom, hlo, hk, hw, hrest]
      · have : a + 1 ≤ k := h1
        simp [h1, hv, wfFrom, ha, ha', hk, hw, hrest, this]
    · by_cases h2 : a = k
      · by_cases hv : v = unlistedWord
        · simp only [h2, hv, if_true, Nat.lt_irrefl, if_false]
          clear ih
          cases rest with
          | nil => rfl
          | cons c rest =>
            obtain ⟨k', w'⟩ := c
            simp only [wfFrom, Bool.and_eq_true, decide_eq_true_eq] at hrest ⊢
            exact ⟨⟨⟨by omega, hrest.1.1.2⟩, hrest.1.2⟩, hrest.2⟩
        · simp [h2, hv, wfFrom, hlo, hk, hrest]
      · simp only [h1, h2, if_false, wfFrom, Bool.and_eq_true, decide_eq_true_eq]
        exact ⟨⟨⟨hlo, hk⟩, hw⟩, ih hrest (by omega)⟩

/-- R64: a read returns the latest write to its address. -/
theorem read_write_same {m : Memory} (h : m.wf = true) (a v : Word) : (m.write a v).read a = v :=
  lookup_insert_same h a.toNat v

/-- R55: a write "replaces the stored word" and leaves every other one. -/
theorem read_write_ne (m : Memory) {a b : Word} (hab : b ≠ a) (v : Word) : (m.write a v).read b = m.read b :=
  lookup_insert_ne m (fun e => hab (BitVec.eq_of_toNat_eq e)) v

/-- Every memory operation keeps the canonical form. -/
theorem wf_write {m : Memory} (h : m.wf = true) (a v : Word) : (m.write a v).wf = true :=
  wfFrom_insert h (Nat.zero_le _) a.isLt v

theorem wf_storeFrom {m : Memory} (h : m.wf = true) (a : Word) (ws : List Word) : (m.storeFrom a ws).wf = true := by
  induction ws generalizing m a with
  | nil => exact h
  | cons w ws ih => exact ih (wf_write h a w) (a + 1)

/-- In canonical form, memories that read the same everywhere are the same list. -/
theorem ext_of_wfFrom {lo : Nat} {m n : Memory} (hm : wfFrom lo m = true) (hn : wfFrom lo n = true)
    (h : ∀ a < 65536, m.lookup a = n.lookup a) : m = n := by
  induction m generalizing lo n with
  | nil =>
    cases n with
    | nil => rfl
    | cons c rest =>
      obtain ⟨k, v⟩ := c
      simp only [wfFrom, Bool.and_eq_true, decide_eq_true_eq, bne_iff_ne] at hn
      have := h k hn.1.1.2
      simp [lookup, eq_comm, hn.1.2] at this
  | cons c rest ih =>
    obtain ⟨k, v⟩ := c
    have hm' := hm
    simp only [wfFrom, Bool.and_eq_true, decide_eq_true_eq, bne_iff_ne] at hm
    cases n with
    | nil =>
      have := h k hm.1.1.2
      simp [lookup, hm.1.2] at this
    | cons c' rest' =>
      obtain ⟨k', v'⟩ := c'
      have hn' := hn
      simp only [wfFrom, Bool.and_eq_true, decide_eq_true_eq, bne_iff_ne] at hn
      have hkk : k = k' := by
        rcases Nat.lt_trichotomy k k' with hlt | heq | hlt
        · have := h k hm.1.1.2
          have hne : k' ≠ k := by omega
          simp only [lookup, if_true, hne, if_false] at this
          exact absurd (this.trans (lookup_below hn.2 (by omega))) hm.1.2
        · exact heq
        · have := h k' hn.1.1.2
          have hne : k ≠ k' := by omega
          simp only [lookup, if_true, hne, if_false] at this
          exact absurd (this.symm.trans (lookup_below hm.2 (by omega))) hn.1.2
      subst hkk
      have hv : v = v' := by simpa [lookup] using h k hm.1.1.2
      subst hv
      congr 1
      refine ih hm.2 hn.2 fun a ha => ?_
      by_cases hak : k = a
      · subst hak
        rw [lookup_below hm.2 (by omega), lookup_below hn.2 (by omega)]
      · simpa [lookup, hak] using h a ha

/-- Equal memories are equal data. -/
theorem ext_of_wf {m n : Memory} (hm : m.wf = true) (hn : n.wf = true) (h : ∀ a, m.read a = n.read a) : m = n :=
  ext_of_wfFrom hm hn fun a ha => by
    have := h (BitVec.ofNat 16 a)
    simpa [read, BitVec.toNat_ofNat, Nat.mod_eq_of_lt ha] using this

end Sys2Proof.Machine.Memory
end

