-- ==== Sys2Proof/Laws/State.lean ====
section
/-!
SUPPORT. One lemma per field per update of State, true by rfl, so that no proof unfolds a record update.
-/
namespace Sys2Proof.Machine.State

variable (s : State)

/-! ### setX -/

@[simp] theorem setX_pc (i : RegIdx) (v : Word) : (s.setX i v).pc = s.pc := rfl
@[simp] theorem setX_cc (i : RegIdx) (v : Word) : (s.setX i v).cc = s.cc := rfl
@[simp] theorem setX_mem (i : RegIdx) (v : Word) : (s.setX i v).mem = s.mem := rfl
@[simp] theorem setX_run (i : RegIdx) (v : Word) : (s.setX i v).run = s.run := rfl
@[simp] theorem setX_input (i : RegIdx) (v : Word) : (s.setX i v).input = s.input := rfl
@[simp] theorem setX_output (i : RegIdx) (v : Word) : (s.setX i v).output = s.output := rfl
@[simp] theorem setX_wait (i : RegIdx) (v : Word) : (s.setX i v).wait = s.wait := rfl
@[simp] theorem setX_keyAnswers (i : RegIdx) (v : Word) : (s.setX i v).keyAnswers = s.keyAnswers := rfl
@[simp] theorem setX_polls (i : RegIdx) (v : Word) : (s.setX i v).polls = s.polls := rfl
@[simp] theorem setX_params (i : RegIdx) (v : Word) : (s.setX i v).params = s.params := rfl

/-! ### setPc -/

@[simp] theorem setPc_x (v : Word) (j : RegIdx) : (s.setPc v).x j = s.x j := rfl
@[simp] theorem setPc_pc (v : Word) : (s.setPc v).pc = v := rfl
@[simp] theorem setPc_cc (v : Word) : (s.setPc v).cc = s.cc := rfl
@[simp] theorem setPc_mem (v : Word) : (s.setPc v).mem = s.mem := rfl
@[simp] theorem setPc_run (v : Word) : (s.setPc v).run = s.run := rfl
@[simp] theorem setPc_input (v : Word) : (s.setPc v).input = s.input := rfl
@[simp] theorem setPc_output (v : Word) : (s.setPc v).output = s.output := rfl
@[simp] theorem setPc_wait (v : Word) : (s.setPc v).wait = s.wait := rfl
@[simp] theorem setPc_keyAnswers (v : Word) : (s.setPc v).keyAnswers = s.keyAnswers := rfl
@[simp] theorem setPc_polls (v : Word) : (s.setPc v).polls = s.polls := rfl
@[simp] theorem setPc_params (v : Word) : (s.setPc v).params = s.params := rfl

/-! ### writeCc -/

@[simp] theorem writeCc_x (v : Word) (j : RegIdx) : (s.writeCc v).x j = s.x j := rfl
@[simp] theorem writeCc_pc (v : Word) : (s.writeCc v).pc = s.pc := rfl
@[simp] theorem writeCc_cc (v : Word) : (s.writeCc v).cc = v := rfl
@[simp] theorem writeCc_mem (v : Word) : (s.writeCc v).mem = s.mem := rfl
@[simp] theorem writeCc_run (v : Word) : (s.writeCc v).run = s.run := rfl
@[simp] theorem writeCc_input (v : Word) : (s.writeCc v).input = s.input := rfl
@[simp] theorem writeCc_output (v : Word) : (s.writeCc v).output = s.output := rfl
@[simp] theorem writeCc_wait (v : Word) : (s.writeCc v).wait = s.wait := rfl
@[simp] theorem writeCc_keyAnswers (v : Word) : (s.writeCc v).keyAnswers = s.keyAnswers := rfl
@[simp] theorem writeCc_polls (v : Word) : (s.writeCc v).polls = s.polls := rfl
@[simp] theorem writeCc_params (v : Word) : (s.writeCc v).params = s.params := rfl

/-! ### setcc -/

@[simp] theorem setcc_x (i : RegIdx) (j : RegIdx) : (s.setcc i).x j = s.x j := rfl
@[simp] theorem setcc_pc (i : RegIdx) : (s.setcc i).pc = s.pc := rfl
@[simp] theorem setcc_cc (i : RegIdx) : (s.setcc i).cc = ccOf (s.x i) := rfl
@[simp] theorem setcc_mem (i : RegIdx) : (s.setcc i).mem = s.mem := rfl
@[simp] theorem setcc_run (i : RegIdx) : (s.setcc i).run = s.run := rfl
@[simp] theorem setcc_input (i : RegIdx) : (s.setcc i).input = s.input := rfl
@[simp] theorem setcc_output (i : RegIdx) : (s.setcc i).output = s.output := rfl
@[simp] theorem setcc_wait (i : RegIdx) : (s.setcc i).wait = s.wait := rfl
@[simp] theorem setcc_keyAnswers (i : RegIdx) : (s.setcc i).keyAnswers = s.keyAnswers := rfl
@[simp] theorem setcc_polls (i : RegIdx) : (s.setcc i).polls = s.polls := rfl
@[simp] theorem setcc_params (i : RegIdx) : (s.setcc i).params = s.params := rfl

/-! ### setXcc -/

@[simp] theorem setXcc_pc (i : RegIdx) (v : Word) : (s.setXcc i v).pc = s.pc := rfl
@[simp] theorem setXcc_mem (i : RegIdx) (v : Word) : (s.setXcc i v).mem = s.mem := rfl
@[simp] theorem setXcc_run (i : RegIdx) (v : Word) : (s.setXcc i v).run = s.run := rfl
@[simp] theorem setXcc_input (i : RegIdx) (v : Word) : (s.setXcc i v).input = s.input := rfl
@[simp] theorem setXcc_output (i : RegIdx) (v : Word) : (s.setXcc i v).output = s.output := rfl
@[simp] theorem setXcc_wait (i : RegIdx) (v : Word) : (s.setXcc i v).wait = s.wait := rfl
@[simp] theorem setXcc_keyAnswers (i : RegIdx) (v : Word) : (s.setXcc i v).keyAnswers = s.keyAnswers := rfl
@[simp] theorem setXcc_polls (i : RegIdx) (v : Word) : (s.setXcc i v).polls = s.polls := rfl
@[simp] theorem setXcc_params (i : RegIdx) (v : Word) : (s.setXcc i v).params = s.params := rfl

/-! ### memWrite -/

@[simp] theorem memWrite_x (a v : Word) (j : RegIdx) : (s.memWrite a v).x j = s.x j := rfl
@[simp] theorem memWrite_pc (a v : Word) : (s.memWrite a v).pc = s.pc := rfl
@[simp] theorem memWrite_cc (a v : Word) : (s.memWrite a v).cc = s.cc := rfl
@[simp] theorem memWrite_mem (a v : Word) : (s.memWrite a v).mem = s.mem.write a v := rfl
@[simp] theorem memWrite_run (a v : Word) : (s.memWrite a v).run = s.run := rfl
@[simp] theorem memWrite_input (a v : Word) : (s.memWrite a v).input = s.input := rfl
@[simp] theorem memWrite_output (a v : Word) : (s.memWrite a v).output = s.output := rfl
@[simp] theorem memWrite_wait (a v : Word) : (s.memWrite a v).wait = s.wait := rfl
@[simp] theorem memWrite_keyAnswers (a v : Word) : (s.memWrite a v).keyAnswers = s.keyAnswers := rfl
@[simp] theorem memWrite_polls (a v : Word) : (s.memWrite a v).polls = s.polls := rfl
@[simp] theorem memWrite_params (a v : Word) : (s.memWrite a v).params = s.params := rfl

/-! ### emit -/

@[simp] theorem emit_x (bytes : List Byte) (j : RegIdx) : (s.emit bytes).x j = s.x j := rfl
@[simp] theorem emit_pc (bytes : List Byte) : (s.emit bytes).pc = s.pc := rfl
@[simp] theorem emit_cc (bytes : List Byte) : (s.emit bytes).cc = s.cc := rfl
@[simp] theorem emit_mem (bytes : List Byte) : (s.emit bytes).mem = s.mem := rfl
@[simp] theorem emit_run (bytes : List Byte) : (s.emit bytes).run = s.run := rfl
@[simp] theorem emit_input (bytes : List Byte) : (s.emit bytes).input = s.input := rfl
@[simp] theorem emit_output (bytes : List Byte) : (s.emit bytes).output = s.output ++ bytes.map .char := rfl
@[simp] theorem emit_wait (bytes : List Byte) : (s.emit bytes).wait = s.wait := rfl
@[simp] theorem emit_keyAnswers (bytes : List Byte) : (s.emit bytes).keyAnswers = s.keyAnswers := rfl
@[simp] theorem emit_polls (bytes : List Byte) : (s.emit bytes).polls = s.polls := rfl
@[simp] theorem emit_params (bytes : List Byte) : (s.emit bytes).params = s.params := rfl

/-! ### setInput -/

@[simp] theorem setInput_x (bytes : List Byte) (j : RegIdx) : (s.setInput bytes).x j = s.x j := rfl
@[simp] theorem setInput_pc (bytes : List Byte) : (s.setInput bytes).pc = s.pc := rfl
@[simp] theorem setInput_cc (bytes : List Byte) : (s.setInput bytes).cc = s.cc := rfl
@[simp] theorem setInput_mem (bytes : List Byte) : (s.setInput bytes).mem = s.mem := rfl
@[simp] theorem setInput_run (bytes : List Byte) : (s.setInput bytes).run = s.run := rfl
@[simp] theorem setInput_input (bytes : List Byte) : (s.setInput bytes).input = bytes := rfl
@[simp] theorem setInput_output (bytes : List Byte) : (s.setInput bytes).output = s.output := rfl
@[simp] theorem setInput_wait (bytes : List Byte) : (s.setInput bytes).wait = s.wait := rfl
@[simp] theorem setInput_keyAnswers (bytes : List Byte) : (s.setInput bytes).keyAnswers = s.keyAnswers := rfl
@[simp] theorem setInput_polls (bytes : List Byte) : (s.setInput bytes).polls = s.polls := rfl
@[simp] theorem setInput_params (bytes : List Byte) : (s.setInput bytes).params = s.params := rfl

/-! ### flush -/

@[simp] theorem flush_x (j : RegIdx) : (s.flush).x j = s.x j := rfl
@[simp] theorem flush_pc : (s.flush).pc = s.pc := rfl
@[simp] theorem flush_cc : (s.flush).cc = s.cc := rfl
@[simp] theorem flush_mem : (s.flush).mem = s.mem := rfl
@[simp] theorem flush_run : (s.flush).run = s.run := rfl
@[simp] theorem flush_input : (s.flush).input = s.input := rfl
@[simp] theorem flush_output : (s.flush).output = s.output ++ [.flush] := rfl
@[simp] theorem flush_wait : (s.flush).wait = s.wait := rfl
@[simp] theorem flush_keyAnswers : (s.flush).keyAnswers = s.keyAnswers := rfl
@[simp] theorem flush_polls : (s.flush).polls = s.polls := rfl
@[simp] theorem flush_params : (s.flush).params = s.params := rfl

/-! ### raise -/

@[simp] theorem raise_x (c : Cause) (j : RegIdx) : (s.raise c).x j = s.x j := rfl
@[simp] theorem raise_pc (c : Cause) : (s.raise c).pc = s.pc := rfl
@[simp] theorem raise_cc (c : Cause) : (s.raise c).cc = s.cc := rfl
@[simp] theorem raise_mem (c : Cause) : (s.raise c).mem = s.mem := rfl
@[simp] theorem raise_run (c : Cause) : (s.raise c).run = .aborted c := rfl
@[simp] theorem raise_input (c : Cause) : (s.raise c).input = s.input := rfl
@[simp] theorem raise_output (c : Cause) : (s.raise c).output = s.output := rfl
@[simp] theorem raise_wait (c : Cause) : (s.raise c).wait = s.wait := rfl
@[simp] theorem raise_keyAnswers (c : Cause) : (s.raise c).keyAnswers = s.keyAnswers := rfl
@[simp] theorem raise_polls (c : Cause) : (s.raise c).polls = s.polls := rfl
@[simp] theorem raise_params (c : Cause) : (s.raise c).params = s.params := rfl

/-! ### halt -/

@[simp] theorem halt_x (j : RegIdx) : (s.halt).x j = s.x j := rfl
@[simp] theorem halt_pc : (s.halt).pc = s.pc := rfl
@[simp] theorem halt_cc : (s.halt).cc = s.cc := rfl
@[simp] theorem halt_mem : (s.halt).mem = s.mem := rfl
@[simp] theorem halt_run : (s.halt).run = .halted := rfl
@[simp] theorem halt_input : (s.halt).input = s.input := rfl
@[simp] theorem halt_output : (s.halt).output = s.output := rfl
@[simp] theorem halt_wait : (s.halt).wait = s.wait := rfl
@[simp] theorem halt_keyAnswers : (s.halt).keyAnswers = s.keyAnswers := rfl
@[simp] theorem halt_polls : (s.halt).polls = s.polls := rfl
@[simp] theorem halt_params : (s.halt).params = s.params := rfl

/-! ### block -/

@[simp] theorem block_x (r : BlockedRead) (j : RegIdx) : (s.block r).x j = s.x j := rfl
@[simp] theorem block_pc (r : BlockedRead) : (s.block r).pc = s.pc := rfl
@[simp] theorem block_cc (r : BlockedRead) : (s.block r).cc = s.cc := rfl
@[simp] theorem block_mem (r : BlockedRead) : (s.block r).mem = s.mem := rfl
@[simp] theorem block_run (r : BlockedRead) : (s.block r).run = s.run := rfl
@[simp] theorem block_input (r : BlockedRead) : (s.block r).input = s.input := rfl
@[simp] theorem block_output (r : BlockedRead) : (s.block r).output = s.output := rfl
@[simp] theorem block_wait (r : BlockedRead) : (s.block r).wait = some r := rfl
@[simp] theorem block_keyAnswers (r : BlockedRead) : (s.block r).keyAnswers = s.keyAnswers := rfl
@[simp] theorem block_polls (r : BlockedRead) : (s.block r).polls = s.polls := rfl
@[simp] theorem block_params (r : BlockedRead) : (s.block r).params = s.params := rfl

/-! ### unblock -/

@[simp] theorem unblock_x (j : RegIdx) : (s.unblock).x j = s.x j := rfl
@[simp] theorem unblock_pc : (s.unblock).pc = s.pc := rfl
@[simp] theorem unblock_cc : (s.unblock).cc = s.cc := rfl
@[simp] theorem unblock_mem : (s.unblock).mem = s.mem := rfl
@[simp] theorem unblock_run : (s.unblock).run = s.run := rfl
@[simp] theorem unblock_input : (s.unblock).input = s.input := rfl
@[simp] theorem unblock_output : (s.unblock).output = s.output := rfl
@[simp] theorem unblock_wait : (s.unblock).wait = none := rfl
@[simp] theorem unblock_keyAnswers : (s.unblock).keyAnswers = s.keyAnswers := rfl
@[simp] theorem unblock_polls : (s.unblock).polls = s.polls := rfl
@[simp] theorem unblock_params : (s.unblock).params = s.params := rfl

/-! ### polled -/

@[simp] theorem polled_x (j : RegIdx) : (s.polled).x j = s.x j := rfl
@[simp] theorem polled_pc : (s.polled).pc = s.pc := rfl
@[simp] theorem polled_cc : (s.polled).cc = s.cc := rfl
@[simp] theorem polled_mem : (s.polled).mem = s.mem := rfl
@[simp] theorem polled_run : (s.polled).run = s.run := rfl
@[simp] theorem polled_input : (s.polled).input = s.input := rfl
@[simp] theorem polled_output : (s.polled).output = s.output := rfl
@[simp] theorem polled_wait : (s.polled).wait = s.wait := rfl
@[simp] theorem polled_keyAnswers : (s.polled).keyAnswers = s.keyAnswers.tail := rfl
@[simp] theorem polled_polls : (s.polled).polls = s.polls + 1 := rfl
@[simp] theorem polled_params : (s.polled).params = s.params := rfl

/-! ### trapEntry -/

@[simp] theorem trapEntry_pc : (s.trapEntry).pc = s.pc := rfl
@[simp] theorem trapEntry_cc : (s.trapEntry).cc = s.cc := rfl
@[simp] theorem trapEntry_mem : (s.trapEntry).mem = s.mem := rfl
@[simp] theorem trapEntry_run : (s.trapEntry).run = s.run := rfl
@[simp] theorem trapEntry_input : (s.trapEntry).input = s.input := rfl
@[simp] theorem trapEntry_output : (s.trapEntry).output = s.output := rfl
@[simp] theorem trapEntry_wait : (s.trapEntry).wait = s.wait := rfl
@[simp] theorem trapEntry_keyAnswers : (s.trapEntry).keyAnswers = s.keyAnswers := rfl
@[simp] theorem trapEntry_polls : (s.trapEntry).polls = s.polls := rfl
@[simp] theorem trapEntry_params : (s.trapEntry).params = s.params := rfl

/-! ### The registers -/

@[simp] theorem R0_ne_R7 : (R0 : RegIdx) ≠ R7 := by decide
@[simp] theorem R7_ne_R0 : (R7 : RegIdx) ≠ R0 := by decide

/-- R20: a register reads what was last written to it, and a write leaves the others. -/
theorem setX_x (i j : RegIdx) (v : Word) : (s.setX i v).x j = if j = i then v else s.x j := by
  simp only [x, setX, Fin.getElem_fin, Vector.getElem_set, Fin.ext_iff, eq_comm]

@[simp] theorem setX_x_same (i : RegIdx) (v : Word) : (s.setX i v).x i = v := by simp [setX_x]

@[simp] theorem setX_x_ne (i j : RegIdx) (v : Word) (h : j ≠ i) : (s.setX i v).x j = s.x j := by simp [setX_x, h]

theorem setXcc_x (i j : RegIdx) (v : Word) : (s.setXcc i v).x j = if j = i then v else s.x j := setX_x s i j v

@[simp] theorem setXcc_x_same (i : RegIdx) (v : Word) : (s.setXcc i v).x i = v := setX_x_same s i v

@[simp] theorem setXcc_x_ne (i j : RegIdx) (v : Word) (h : j ≠ i) : (s.setXcc i v).x j = s.x j := setX_x_ne s i j v h

/-- R28: `setcc` reads the value just written. -/
@[simp] theorem setXcc_cc (i : RegIdx) (v : Word) : (s.setXcc i v).cc = ccOf v := by
  simp [setXcc]

theorem trapEntry_x (j : RegIdx) : s.trapEntry.x j = if j = R7 then s.pc else s.x j := setX_x s R7 j s.pc

@[simp] theorem trapEntry_x_R7 : s.trapEntry.x R7 = s.pc := setX_x_same s R7 s.pc

@[simp] theorem trapEntry_x_ne (j : RegIdx) (h : j ≠ R7) : s.trapEntry.x j = s.x j := setX_x_ne s R7 j s.pc h

/-- TRAP leaves the routines' argument register. -/
@[simp] theorem trapEntry_x_R0 : s.trapEntry.x R0 = s.x R0 := trapEntry_x_ne s R0 R0_ne_R7

/-- Two states with the same registers, read one by one, have the same register file. -/
theorem regs_ext {s t : State} (h : ∀ r, s.x r = t.x r) : s.regs = t.regs :=
  Vector.ext fun i hi => h ⟨i, hi⟩

end Sys2Proof.Machine.State
end

