-- ==== Sys2Proof/Laws/Operands.lean ====
section
/-!
SUPPORT. The shared computations, said once each: the flag of a word (10_state.md R28), the sign extension (30_encoding.md
R86), the branch test (41_control.md R142), the frame of a register result (40_operate.md R126).
-/
namespace Sys2Proof.Machine

theorem getLsbD_15 (v : Word) : v.getLsbD 15 = decide (0x8000 ≤ v.toNat) := by
  simpa [BitVec.msb_eq_getLsbD_last] using BitVec.msb_eq_decide v

/-- R28: the flag written for `v` tells its sign. -/
theorem flagsTell_ccOf (v : Word) : FlagsTell v (ccOf v) := by
  unfold ccOf flagOf
  rw [getLsbD_15]
  refine ⟨fun h => ?_, fun h => ?_, fun h => ?_⟩
  · rw [if_pos (decide_eq_true h)]; rfl
  · rw [if_neg (by simp [h]), if_pos (BitVec.eq_of_toNat_eq h)]; rfl
  · rw [if_neg (by simp; omega), if_neg (fun e => absurd h.1 (by rw [e]; decide))]; rfl

/-- R27: the flag written is one of the three. -/
theorem ccLegal_ccOf (v : Word) : ccLegal (ccOf v) = true := by
  unfold ccOf; cases flagOf v <;> decide

/-- R86: `sext` is two's-complement sign extension, at every width 1..16. -/
theorem sext_eq_signExtend {n : Nat} (_ : 1 ≤ n) (hn : n ≤ 16) (v : BitVec n) : sext v = v.signExtend 16 := by
  have ones : ∀ j : Fin 16, (0xFFFF : Word).getLsbD j = true := by decide
  have hm : v.msb = v.getLsbD (n - 1) := BitVec.msb_eq_getLsbD_last v
  apply BitVec.eq_of_getLsbD_eq
  intro i hi
  rw [BitVec.getLsbD_signExtend, hm]
  unfold sext
  by_cases h : i < n
  · cases hb : v.getLsbD (n - 1) <;> simp [hi, h]
  · have hi' : v.getLsbD i = false := BitVec.getLsbD_of_ge v i (by omega)
    cases hb : v.getLsbD (n - 1)
    · simp [h, hi']
    · simp only [if_true, BitVec.getLsbD_or, BitVec.getLsbD_setWidth, hi', BitVec.getLsbD_shiftLeft, hi, h, decide_true,
        decide_false, Bool.not_false, Bool.and_true, Bool.true_and, Bool.and_false, Bool.false_or, if_false]
      exact ones ⟨i - n, by omega⟩

/-- R142: the test is true exactly when the mask and the condition code share a set bit. -/
theorem branchTaken_iff (cond : BitVec 3) (cc : Word) :
    branchTaken cond cc = true ↔ ∃ k < 3, cond.getLsbD k = true ∧ cc.getLsbD k = true := by
  unfold branchTaken
  rw [bne_iff_ne]
  constructor
  · intro h
    by_contra hn
    refine h (BitVec.eq_of_getLsbD_eq fun i hi => ?_)
    by_cases h3 : i < 3
    · have : ¬ (cond.getLsbD i = true ∧ cc.getLsbD i = true) := fun e => hn ⟨i, h3, e⟩
      revert this
      cases hc : cond.getLsbD i <;> cases hcc : cc.getLsbD i <;> simp [hc, hcc]
    · simp [BitVec.getLsbD_of_ge cond i (by omega)]
  · rintro ⟨k, h3, h1, h2⟩ h
    have hk : k < 16 := by omega
    have hb : (cond.setWidth 16 &&& cc).getLsbD k = true := by
      rw [BitVec.getLsbD_and, BitVec.getLsbD_setWidth, h1, h2, decide_eq_true hk]; rfl
    rw [h] at hb
    exact absurd hb (by simp)

theorem setXcc_flagsTell (s : State) (dr : RegIdx) (v : Word) :
    FlagsTell ((s.setXcc dr v).x dr) (s.setXcc dr v).cc := by
  simpa using flagsTell_ccOf v

/-- R126, R170: writing a result register changes that register and `cc` only. -/
theorem setXcc_onlyResult (s : State) (dr : RegIdx) (v : Word) : OnlyResult dr s (s.setXcc dr v) :=
  ⟨fun r hr => s.setXcc_x_ne dr r v (by simpa using hr), rfl, fun _ => rfl, ⟨rfl, rfl, rfl⟩, rfl, ⟨rfl, rfl, rfl⟩⟩

/-- All a load can do: what its read does, then the result register and `cc`. -/
theorem loadFrom_eq (s : State) (dr : RegIdx) (ea : Word) :
    s.loadFrom dr ea = (s.afterRead ea).setXcc dr ((s.afterRead ea).mem.read ea) := rfl

/-- R55: a store changes the word at its address only. -/
theorem memWrite_onlyStores (s : State) (a v : Word) : OnlyStores [a] s (s.memWrite a v) :=
  ⟨fun _ _ => rfl, rfl, rfl, fun _ hb => Memory.read_write_ne s.mem (by simpa using hb) v, ⟨rfl, rfl, rfl⟩, rfl,
    ⟨rfl, rfl, rfl⟩⟩

end Sys2Proof.Machine
end

