-- ==== Sys2Proof/Laws/Ops.lean ====
section
/-!
SUPPORT. What the keyboard poll, a read through the memory interface and the fetch can do (20_memory.md R53, R56;
60_exceptions.md R240, R241), said once each.
-/
namespace Sys2Proof.Machine.State

variable (s : State)

/-- R241: `read_char()` takes the first byte of the stream, and nothing else changes. -/
theorem readChar_cases :
    (s.input = [] ∧ s.readChar = none) ∨
      ∃ c rest, s.input = c :: rest ∧ s.readChar = some (c, s.setInput rest) := by
  unfold readChar
  cases h : s.input with
  | nil => exact .inl ⟨rfl, rfl⟩
  | cons c rest => exact .inr ⟨c, rest, rfl, rfl⟩

theorem readChar_of_cons {c : Byte} {rest : List Byte} (h : s.input = c :: rest) :
    s.readChar = some (c, s.setInput rest) := by
  simp [readChar, h]

theorem readChar_of_nil (h : s.input = []) : s.readChar = none := by
  simp [readChar, h]

/-- R240, D16: a key is reported available only when the input stream holds at least one byte. -/
theorem keyReady_input (h : s.keyReady = true) : ∃ c rest, s.input = c :: rest := by
  cases hi : s.input with
  | nil => simp [keyReady, hi] at h
  | cons c rest => exact ⟨c, rest, rfl⟩

/-- R53, all of a poll: ready, with KBSR and KBDR rewritten and one byte consumed; or not ready, with KBSR cleared. -/
theorem pollKeyboard_cases :
    (s.keyReady = true ∧ ∃ c rest, s.input = c :: rest ∧
      s.pollKeyboard =
        { s with
          mem := (s.mem.write s.params.kbsrAddr kbsrReady).write s.params.kbdrAddr (zext16 c)
          input := rest
          keyAnswers := s.keyAnswers.tail
          polls := s.polls + 1 }) ∨
    (s.keyReady = false ∧
      s.pollKeyboard =
        { s with
          mem := s.mem.write s.params.kbsrAddr kbsrNotReady
          keyAnswers := s.keyAnswers.tail
          polls := s.polls + 1 }) := by
  cases hr : s.keyReady with
  | true =>
    obtain ⟨c, rest, hi⟩ := s.keyReady_input hr
    refine .inl ⟨rfl, c, rest, hi, ?_⟩
    simp [pollKeyboard, hr, readChar, memWrite, polled, setInput, hi]
  | false => exact .inr ⟨rfl, by simp [pollKeyboard, hr, memWrite, polled]⟩

/-- R53: only a read of `KBSR_ADDR` polls. -/
theorem afterRead_of_ne {a : Word} (h : a ≠ s.params.kbsrAddr) : s.afterRead a = s := by simp [afterRead, h]

@[simp] theorem afterRead_kbsr : s.afterRead s.params.kbsrAddr = s.pollKeyboard := by simp [afterRead]

theorem memRead_of_ne {a : Word} (h : a ≠ s.params.kbsrAddr) : s.memRead a = (s.mem.read a, s) := by
  simp [memRead, afterRead, h]

@[simp] theorem memRead_fst (a : Word) : (s.memRead a).1 = (s.afterRead a).mem.read a := rfl
@[simp] theorem memRead_snd (a : Word) : (s.memRead a).2 = s.afterRead a := rfl

@[simp] theorem pollKeyboard_regs : (s.pollKeyboard).regs = s.regs := by
  rcases s.pollKeyboard_cases with ⟨-, c, rest, -, h⟩ | ⟨-, h⟩ <;> rw [h]
@[simp] theorem pollKeyboard_pc : (s.pollKeyboard).pc = s.pc := by
  rcases s.pollKeyboard_cases with ⟨-, c, rest, -, h⟩ | ⟨-, h⟩ <;> rw [h]
@[simp] theorem pollKeyboard_cc : (s.pollKeyboard).cc = s.cc := by
  rcases s.pollKeyboard_cases with ⟨-, c, rest, -, h⟩ | ⟨-, h⟩ <;> rw [h]
@[simp] theorem pollKeyboard_run : (s.pollKeyboard).run = s.run := by
  rcases s.pollKeyboard_cases with ⟨-, c, rest, -, h⟩ | ⟨-, h⟩ <;> rw [h]
@[simp] theorem pollKeyboard_output : (s.pollKeyboard).output = s.output := by
  rcases s.pollKeyboard_cases with ⟨-, c, rest, -, h⟩ | ⟨-, h⟩ <;> rw [h]
@[simp] theorem pollKeyboard_wait : (s.pollKeyboard).wait = s.wait := by
  rcases s.pollKeyboard_cases with ⟨-, c, rest, -, h⟩ | ⟨-, h⟩ <;> rw [h]
@[simp] theorem pollKeyboard_params : (s.pollKeyboard).params = s.params := by
  rcases s.pollKeyboard_cases with ⟨-, c, rest, -, h⟩ | ⟨-, h⟩ <;> rw [h]
@[simp] theorem pollKeyboard_x (r : RegIdx) : s.pollKeyboard.x r = s.x r := by simp [x]

@[simp] theorem afterRead_regs (a : Word) : (s.afterRead a).regs = s.regs := by
  unfold afterRead; split <;> simp
@[simp] theorem afterRead_pc (a : Word) : (s.afterRead a).pc = s.pc := by
  unfold afterRead; split <;> simp
@[simp] theorem afterRead_cc (a : Word) : (s.afterRead a).cc = s.cc := by
  unfold afterRead; split <;> simp
@[simp] theorem afterRead_run (a : Word) : (s.afterRead a).run = s.run := by
  unfold afterRead; split <;> simp
@[simp] theorem afterRead_output (a : Word) : (s.afterRead a).output = s.output := by
  unfold afterRead; split <;> simp
@[simp] theorem afterRead_wait (a : Word) : (s.afterRead a).wait = s.wait := by
  unfold afterRead; split <;> simp
@[simp] theorem afterRead_params (a : Word) : (s.afterRead a).params = s.params := by
  unfold afterRead; split <;> simp
@[simp] theorem afterRead_x (a : Word) (r : RegIdx) : (s.afterRead a).x r = s.x r := by simp [x]

/-- R60: a poll rewrites no word but KBSR and KBDR. -/
theorem pollKeyboard_mem_ne {a : Word} (h1 : a ≠ s.params.kbsrAddr) (h2 : a ≠ s.params.kbdrAddr) :
    s.pollKeyboard.mem.read a = s.mem.read a := by
  rcases s.pollKeyboard_cases with ⟨-, c, rest, -, h⟩ | ⟨-, h⟩ <;> rw [h] <;>
    simp [Memory.read_write_ne, h1, h2]

theorem pollKeyboard_wf (h : s.mem.wf = true) : s.pollKeyboard.mem.wf = true := by
  rcases s.pollKeyboard_cases with ⟨-, c, rest, -, e⟩ | ⟨-, e⟩ <;> rw [e] <;>
    simp [Memory.wf_write, h]

theorem afterRead_wf (h : s.mem.wf = true) (a : Word) : (s.afterRead a).mem.wf = true := by
  unfold afterRead; split
  · exact s.pollKeyboard_wf h
  · exact h

/-- R60: a read rewrites no word but KBSR and KBDR, and those only when it is a read of `KBSR_ADDR`. -/
theorem afterRead_mem_ne {a b : Word} (h : a = s.params.kbsrAddr → b ≠ s.params.kbsrAddr ∧ b ≠ s.params.kbdrAddr) :
    (s.afterRead a).mem.read b = s.mem.read b := by
  unfold afterRead; split
  · next e => exact s.pollKeyboard_mem_ne (h e).1 (h e).2
  · rfl

/-! ### The fetch -/

/-- R56, R264: away from `KBSR_ADDR` the fetch reads the word at pc and increments pc. -/
theorem fetch_of_ne (h : s.pc ≠ s.params.kbsrAddr) : s.fetch = (s.mem.read s.pc, s.setPc (s.pc + 1)) := by
  simp [fetch, afterRead_of_ne s h]

/-- R56: at `KBSR_ADDR` the fetch polls, and reads the word its own poll wrote. -/
theorem fetch_of_kbsr (h : s.pc = s.params.kbsrAddr) :
    s.fetch = (s.pollKeyboard.mem.read s.pc, s.pollKeyboard.setPc (s.pc + 1)) := by
  simp [fetch, afterRead, h]

@[simp] theorem fetch_pc : s.fetch.2.pc = s.pc + 1 := by simp [fetch]
@[simp] theorem fetch_cc : s.fetch.2.cc = s.cc := by simp [fetch]
@[simp] theorem fetch_x (r : RegIdx) : s.fetch.2.x r = s.x r := by simp [fetch]
@[simp] theorem fetch_run : s.fetch.2.run = s.run := by simp [fetch]
@[simp] theorem fetch_output : s.fetch.2.output = s.output := by simp [fetch]
@[simp] theorem fetch_wait : s.fetch.2.wait = s.wait := by simp [fetch]
@[simp] theorem fetch_params : s.fetch.2.params = s.params := by simp [fetch]

theorem fetch_wf (h : s.mem.wf = true) : s.fetch.2.mem.wf = true := by
  simpa [fetch] using s.afterRead_wf h s.pc

end Sys2Proof.Machine.State
end

