-- ==== Sys2Proof/Laws/PerInstr.lean ====
section
/-!
SUPPORT. Statements made per instruction, one lemma per constructor of Instr.
-/
namespace Sys2Proof.Laws

/-- The family EncodedOpcode: the top nibble of an instruction's word is its row's opcode number
(30_encoding.md R81, R90, R92). -/
def EncodedOpcode.Statement (i : Instr) : Prop :=
  fieldOpcode (encode i) = fieldOpcode i.row.pattern

theorem EncodedOpcode.br (c : BitVec 3) (o : BitVec 9) : EncodedOpcode.Statement (.br c o) := by
  rw [EncodedOpcode.Statement, encode, fieldOpcode_formatBR, Instr.row]; decide
theorem EncodedOpcode.addReg (a b c : RegIdx) : EncodedOpcode.Statement (.addReg a b c) := by
  rw [EncodedOpcode.Statement, encode, fieldOpcode_formatOPR, Instr.row]; decide
theorem EncodedOpcode.addImm (a b : RegIdx) (v : BitVec 5) : EncodedOpcode.Statement (.addImm a b v) := by
  rw [EncodedOpcode.Statement, encode, fieldOpcode_formatOPI, Instr.row]; decide
theorem EncodedOpcode.ld (a : RegIdx) (o : BitVec 9) : EncodedOpcode.Statement (.ld a o) := by
  rw [EncodedOpcode.Statement, encode, fieldOpcode_formatPCM, Instr.row]; decide
theorem EncodedOpcode.st (a : RegIdx) (o : BitVec 9) : EncodedOpcode.Statement (.st a o) := by
  rw [EncodedOpcode.Statement, encode, fieldOpcode_formatPCM, Instr.row]; decide
theorem EncodedOpcode.jsr (o : BitVec 11) : EncodedOpcode.Statement (.jsr o) := by
  rw [EncodedOpcode.Statement, encode, fieldOpcode_formatJSR, Instr.row]; decide
theorem EncodedOpcode.jsrr (a : RegIdx) : EncodedOpcode.Statement (.jsrr a) := by
  rw [EncodedOpcode.Statement, encode, fieldOpcode_formatJSRR, Instr.row]; decide
theorem EncodedOpcode.andReg (a b c : RegIdx) : EncodedOpcode.Statement (.andReg a b c) := by
  rw [EncodedOpcode.Statement, encode, fieldOpcode_formatOPR, Instr.row]; decide
theorem EncodedOpcode.andImm (a b : RegIdx) (v : BitVec 5) : EncodedOpcode.Statement (.andImm a b v) := by
  rw [EncodedOpcode.Statement, encode, fieldOpcode_formatOPI, Instr.row]; decide
theorem EncodedOpcode.ldr (a b : RegIdx) (o : BitVec 6) : EncodedOpcode.Statement (.ldr a b o) := by
  rw [EncodedOpcode.Statement, encode, fieldOpcode_formatBRM, Instr.row]; decide
theorem EncodedOpcode.str (a b : RegIdx) (o : BitVec 6) : EncodedOpcode.Statement (.str a b o) := by
  rw [EncodedOpcode.Statement, encode, fieldOpcode_formatBRM, Instr.row]; decide
theorem EncodedOpcode.rti : EncodedOpcode.Statement .rti := by
  rw [EncodedOpcode.Statement, encode, fieldOpcode_formatILL, Instr.row]; decide
theorem EncodedOpcode.notReg (a b : RegIdx) : EncodedOpcode.Statement (.notReg a b) := by
  rw [EncodedOpcode.Statement, encode, fieldOpcode_formatBRM, Instr.row]; decide
theorem EncodedOpcode.ldi (a : RegIdx) (o : BitVec 9) : EncodedOpcode.Statement (.ldi a o) := by
  rw [EncodedOpcode.Statement, encode, fieldOpcode_formatPCM, Instr.row]; decide
theorem EncodedOpcode.sti (a : RegIdx) (o : BitVec 9) : EncodedOpcode.Statement (.sti a o) := by
  rw [EncodedOpcode.Statement, encode, fieldOpcode_formatPCM, Instr.row]; decide
theorem EncodedOpcode.jmp (a : RegIdx) : EncodedOpcode.Statement (.jmp a) := by
  rw [EncodedOpcode.Statement, encode, fieldOpcode_formatJMP, Instr.row]; decide
theorem EncodedOpcode.res : EncodedOpcode.Statement .res := by
  rw [EncodedOpcode.Statement, encode, fieldOpcode_formatILL, Instr.row]; decide
theorem EncodedOpcode.lea (a : RegIdx) (o : BitVec 9) : EncodedOpcode.Statement (.lea a o) := by
  rw [EncodedOpcode.Statement, encode, fieldOpcode_formatPCM, Instr.row]; decide
theorem EncodedOpcode.trapGetc : EncodedOpcode.Statement .trapGetc := by
  rw [EncodedOpcode.Statement, encode, fieldOpcode_formatTRAP, Instr.row]; decide
theorem EncodedOpcode.trapOut : EncodedOpcode.Statement .trapOut := by
  rw [EncodedOpcode.Statement, encode, fieldOpcode_formatTRAP, Instr.row]; decide
theorem EncodedOpcode.trapPuts : EncodedOpcode.Statement .trapPuts := by
  rw [EncodedOpcode.Statement, encode, fieldOpcode_formatTRAP, Instr.row]; decide
theorem EncodedOpcode.trapIn : EncodedOpcode.Statement .trapIn := by
  rw [EncodedOpcode.Statement, encode, fieldOpcode_formatTRAP, Instr.row]; decide
theorem EncodedOpcode.trapPutsp : EncodedOpcode.Statement .trapPutsp := by
  rw [EncodedOpcode.Statement, encode, fieldOpcode_formatTRAP, Instr.row]; decide
theorem EncodedOpcode.trapHalt : EncodedOpcode.Statement .trapHalt := by
  rw [EncodedOpcode.Statement, encode, fieldOpcode_formatTRAP, Instr.row]; decide
theorem EncodedOpcode.trapUndefined (v : BitVec 8) : EncodedOpcode.Statement (.trapUndefined v) := by
  rw [EncodedOpcode.Statement, encode, fieldOpcode_formatTRAP, Instr.row]; decide

end Sys2Proof.Laws
end

