-- ==== Sys2Proof/Laws/Trap.lean ====
section
/-!
SUPPORT. What the string scan, GETC and IN can do (43_trap.md R191, R193 to R195), said once each.
-/
namespace Sys2Proof.Machine

theorem add_ofNat_succ (a : Word) (j : Nat) : a + BitVec.ofNat 16 (j + 1) = a + 1 + BitVec.ofNat 16 j := by
  rw [BitVec.add_assoc, show (1 : Word) = BitVec.ofNat 16 1 from rfl, ← BitVec.ofNat_add, Nat.add_comm 1 j]

theorem stringWords_succ (m : Memory) (a : Word) (k : Nat) :
    stringWords m a (k + 1) = m.read a :: stringWords m (a + 1) k := by
  unfold stringWords
  rw [List.range_succ_eq_map, List.map_cons, List.map_map]
  refine congrArg₂ _ (congrArg m.read (BitVec.add_zero a)) (List.map_congr_left fun j _ => ?_)
  exact congrArg m.read (add_ofNat_succ a j)

/-- One word of the scan: a zero word ends it. -/
theorem scanString_zero (chars : Word → List Byte) {m : Memory} (n : Nat) {a : Word} (h : m.read a = 0) :
    scanString chars m (n + 1) a = ([], true) := if_pos h

/-- One word of the scan: another word's characters are written and the scan goes on. -/
theorem scanString_succ (chars : Word → List Byte) {m : Memory} (n : Nat) {a : Word} (h : m.read a ≠ 0) :
    scanString chars m (n + 1) a =
      (chars (m.read a) ++ (scanString chars m n (a + 1)).1, (scanString chars m n (a + 1)).2) := if_neg h

/-- The scan stops at the first zero word and has written the characters of the words before it. -/
theorem scanString_of_zero (chars : Word → List Byte) (m : Memory) {n k : Nat} (hk : k < n) {a : Word}
    (hnz : ∀ w ∈ stringWords m a k, w ≠ 0) (hz : m.read (a + BitVec.ofNat 16 k) = 0) :
    scanString chars m n a = ((stringWords m a k).flatMap chars, true) := by
  induction k generalizing n a with
  | zero =>
    obtain ⟨n, rfl⟩ : ∃ j, n = j + 1 := ⟨n - 1, by omega⟩
    exact scanString_zero chars n (by rwa [show BitVec.ofNat 16 0 = 0#16 from rfl, BitVec.add_zero] at hz)
  | succ k ih =>
    obtain ⟨n, rfl⟩ : ∃ j, n = j + 1 := ⟨n - 1, by omega⟩
    rw [stringWords_succ] at hnz ⊢
    rw [add_ofNat_succ] at hz
    rw [scanString_succ chars n (hnz _ List.mem_cons_self),
      ih (by omega) (fun w hw => hnz w (List.mem_cons_of_mem _ hw)) hz, List.flatMap_cons]

/-- Where no word is zero the scan runs over all `n` words and is not terminated. -/
theorem scanString_of_no_zero (chars : Word → List Byte) (m : Memory) {n : Nat} {a : Word}
    (hnz : ∀ w ∈ stringWords m a n, w ≠ 0) :
    scanString chars m n a = ((stringWords m a n).flatMap chars, false) := by
  induction n generalizing a with
  | zero => rfl
  | succ n ih =>
    rw [stringWords_succ] at hnz ⊢
    rw [scanString_succ chars n (hnz _ List.mem_cons_self), ih fun w hw => hnz w (List.mem_cons_of_mem _ hw),
      List.flatMap_cons]

namespace State

variable (s : State)

/-- R193, R195: a terminated string is written and flushed. -/
theorem putString_of_string (chars : Word → List Byte) {k : Nat} (h : StringAt s.mem (s.x R0) k) :
    s.putString chars = (s.emit ((stringWords s.mem (s.x R0) k).flatMap chars)).flush := by
  have e : s.scanR0 chars = ((stringWords s.mem (s.x R0) k).flatMap chars, true) :=
    scanString_of_zero chars s.mem (by have := h.1; unfold wordsFrom; omega) h.2.1 h.2.2
  simp [putString, e]

/-- R234: a string without terminator is written, then StringOverrun is raised, and nothing is flushed. -/
theorem putString_of_no_string (chars : Word → List Byte) (h : NoStringAt s.mem (s.x R0)) :
    s.putString chars =
      (s.emit ((stringWords s.mem (s.x R0) (65536 - (s.x R0).toNat)).flatMap chars)).raise .stringOverrun := by
  have e : s.scanR0 chars = ((stringWords s.mem (s.x R0) (65536 - (s.x R0).toNat)).flatMap chars, false) :=
    scanString_of_no_zero chars s.mem h
  simp [putString, e]

/-- All PUTS and PUTSP can do: write bytes and flush, or write bytes and raise StringOverrun. -/
theorem putString_cases (chars : Word → List Byte) :
    (∃ bytes, s.putString chars = (s.emit bytes).flush) ∨
      ∃ bytes, s.putString chars = (s.emit bytes).raise .stringOverrun := by
  unfold putString; split
  · exact .inl ⟨_, rfl⟩
  · exact .inr ⟨_, rfl⟩

/-- OUT: one byte and a flush. -/
theorem out_eq : s.out = (s.emit [(s.x R0).extractLsb' 0 8]).flush := rfl

/-- HALT: the notice, a flush, and the run is halted. -/
theorem haltRoutine_eq : s.haltRoutine = ((s.emit s.params.haltNotice).flush).halt := rfl

/-- IN: the prompt, then the read. -/
theorem trapInput_eq : s.trapInput = (s.emit s.params.inPrompt).inRead := rfl

/-- All GETC can do: take a byte into R0 and set the flags, or block. -/
theorem getc_cases :
    (∃ c rest, s.input = c :: rest ∧ s.getc = (s.setInput rest).setXcc R0 (zext16 c)) ∨
      (s.input = [] ∧ s.getc = s.block .getc) := by
  rcases s.readChar_cases with ⟨h, e⟩ | ⟨c, rest, h, e⟩
  · exact .inr ⟨h, by simp [getc, e]⟩
  · exact .inl ⟨c, rest, h, by simp [getc, e]⟩

/-- All IN can do from its read on: take a byte, echo it, flush, store it, set the flags; or block. -/
theorem inRead_cases :
    (∃ c rest, s.input = c :: rest ∧
      s.inRead = (((s.setInput rest).emit [c]).flush).setXcc R0 (zext16 c)) ∨
      (s.input = [] ∧ s.inRead = s.block .trapIn) := by
  rcases s.readChar_cases with ⟨h, e⟩ | ⟨c, rest, h, e⟩
  · exact .inr ⟨h, by simp [inRead, e]⟩
  · exact .inl ⟨c, rest, h, by simp [inRead, e]⟩

end State

end Sys2Proof.Machine
end

