-- ==== Sys2Proof/Laws/Step.lean ====
section
/-!
SUPPORT. What a step can do (70_reset_and_hazards.md R264): one inversion lemma, and the totality of the meanings.
-/
namespace Sys2Proof.Machine

/-- No meaning ends in a fault or a refusal. -/
theorem exec_next (i : Instr) (s : State) : ∃ t, exec i s = .next t := by
  cases i <;> exact ⟨_, rfl⟩

theorem resumeRead_next (r : BlockedRead) (s : State) : ∃ t, resumeRead r s = .next t := by
  cases r <;> exact ⟨_, rfl⟩

/-- A step that answers a next state ran a decoded instruction, or went on with a blocked read, in a running state. -/
theorem step_cases {s t : State} (h : step s = .next t) :
    s.run = .running ∧
      ((s.wait = none ∧ exec (decode s.fetch.1) s.fetch.2 = .next t) ∨
        ∃ r, s.wait = some r ∧ resumeRead r s = .next t) := by
  unfold step at h
  split at h
  · cases h
  · cases h
  · next hr =>
    refine ⟨hr, ?_⟩
    split at h
    · next r hw => exact .inr ⟨r, hw, h⟩
    · next hw => exact .inl ⟨hw, h⟩

end Sys2Proof.Machine
end

