-- ==== Sys2Proof/Tests/Slice0.lean ====
section
/-!
SUPPORT. The model's own tests. Every expected value stands in 95_test_vectors.md (the V number is named) or is worked
out from the rule named. First the well-formedness smoke, then decoding, one or two steps per instruction, and a
witness for every obligation that has hypotheses.
-/
namespace Sys2Proof.Tests

open Sys2Proof Sys2Proof.Machine

/-! ## Helpers -/

/-- A small state: pc, listed memory words, listed registers, the rest as 95_test_vectors.md's conventions have it. -/
def mk (pc : Word) (words : List (Word × Word)) (gprs : List (RegIdx × Word)) (cc : Word := FL_Z)
    (input : List Byte := []) (answers : List Bool := []) : State :=
  { State.reset with
    pc := pc
    cc := cc
    mem := words.foldl (fun m p => m.write p.1 p.2) []
    regs := gprs.foldl (fun r p => r.set p.1 p.2) State.reset.regs
    input := input
    keyAnswers := answers }

/-- What `f` reads in the state after one step. -/
def after {α : Type} (s : State) (f : State → α) : Option α :=
  match step s with
  | .next t => some (f t)
  | .fault _ => none
  | .refused _ => none

/-- The written bytes of a state. -/
def out (s : State) : List Byte := outputBytes s.output

/-! ## Well-formedness: the one check, and terms it refuses (R91, R92) -/

theorem test_wf_refuses_defined_vectors :
    [0x20, 0x21, 0x22, 0x23, 0x24, 0x25].all (fun v => !(Instr.trapUndefined v).wf) = true := by decide

theorem test_wf_accepts_undefined_vectors :
    [0x00, 0x1F, 0x26, 0xFF].all (fun v => (Instr.trapUndefined v).wf) = true := by decide

/-! ## Decoding: words written out from the formats of R84 and the patterns of R92 -/

/-- BR: 0000 nzp ooooooooo (V51, V50). -/
theorem test_decode_br : decode 0b0000_010_111111101 = .br 0b010 0x1FD ∧ decode 0x0810 = .br 0b100 0x010 := by decide

/-- ADD: 0001 ddd sss 0xx ttt (V20; V28 with bits 4:3 set) and 0001 ddd sss 1 iiiii (V24). -/
theorem test_decode_add :
    decode 0b0001_010_011_0_00_100 = .addReg 2 3 4 ∧ decode 0b0001_010_011_0_11_100 = .addReg 2 3 4 ∧
    decode 0b0001_101_101_1_11111 = .addImm 5 5 0x1F := by decide

/-- AND (V30, V32). -/
theorem test_decode_and :
    decode 0b0101_001_010_0_00_011 = .andReg 1 2 3 ∧ decode 0b0101_001_010_1_10000 = .andImm 1 2 0x10 := by decide

/-- NOT: 1001 ddd sss xxxxxx (V35; V39 with bits 5:0 clear). -/
theorem test_decode_not :
    decode 0b1001_011_100_111111 = .notReg 3 4 ∧ decode 0b1001_001_010_000000 = .notReg 1 2 := by decide

/-- JMP: 1100 xxx bbb xxxxxx (V57; V59). -/
theorem test_decode_jmp : decode 0b1100_000_111_000000 = .jmp 7 ∧ decode 0b1100_111_010_111111 = .jmp 2 := by decide

/-- JSR: 0100 1 ooooooooooo (V60, V62); JSRR: 0100 0 xx bbb xxxxxx (V64; 0x47C0 of 2.6). -/
theorem test_decode_jsr :
    decode 0b0100_1_00000000010 = .jsr 2 ∧ decode 0x4C00 = .jsr 0x400 ∧ decode 0b0100_0_00_011_000000 = .jsrr 3 ∧
    decode 0b0100_0_11_111_000000 = .jsrr 7 := by decide

/-- LD, LDI, LEA, ST, STI: oooo rrr ooooooooo (V70, V74, V81, V84, V86). -/
theorem test_decode_pc_relative :
    decode 0b0010_001_000000010 = .ld 1 2 ∧ decode 0b1010_000_000000001 = .ldi 0 1 ∧
    decode 0b1110_011_111111111 = .lea 3 0x1FF ∧ decode 0b0011_001_000000011 = .st 1 3 ∧
    decode 0b1011_000_000000001 = .sti 0 1 := by decide

/-- LDR, STR: oooo rrr bbb oooooo (V75, V88). -/
theorem test_decode_base_offset :
    decode 0b0110_010_011_111111 = .ldr 2 3 0x3F ∧ decode 0b0111_000_110_111111 = .str 0 6 0x3F := by decide

/-- TRAP: 1111 xxxx vvvvvvvv (V110 to V128). -/
theorem test_decode_trap :
    decode 0xF020 = .trapGetc ∧ decode 0xFF21 = .trapOut ∧ decode 0xF022 = .trapPuts ∧ decode 0xF023 = .trapIn ∧
    decode 0xF024 = .trapPutsp ∧ decode 0xFF25 = .trapHalt ∧ decode 0xF026 = .trapUndefined 0x26 ∧
    decode 0xF000 = .trapUndefined 0x00 := by decide

/-- RES and RTI, whatever the low 12 bits (V130 to V133). -/
theorem test_decode_illegal :
    decode 0xD000 = .res ∧ decode 0xDFFF = .res ∧ decode 0x8000 = .rti ∧ decode 0x8ABC = .rti := by decide

/-- The customary words of R99 and the vectors: the unused bits as an assembler writes them. -/
theorem test_encode :
    encode (.br 0b010 0x1FD) = 0x05FD ∧ encode (.addReg 2 3 4) = 0x14C4 ∧ encode (.addImm 0 1 5) = 0x1065 ∧
    encode (.notReg 0 1) = 0x907F ∧ encode (.jmp 7) = 0xC1C0 ∧ encode (.jsr 2) = 0x4802 ∧ encode (.jsrr 3) = 0x40C0 ∧
    encode (.ldr 2 3 0x3F) = 0x64FF ∧ encode (.sti 0 1) = 0xB001 ∧ encode .trapHalt = 0xF025 := by decide

/-- The host's numbering: 16 bits of one word; a number above them is no instruction. -/
theorem test_decodeTableWord :
    decodeTableWord 16 0x14C4 = some (.addReg 2 3 4) ∧ decodeTableWord 16 0xF025 = some .trapHalt := by decide

/-! ## One step of each instruction -/

/-- V51. -/
theorem test_br_backward : after (mk 0x3005 [(0x3005, 0x05FD)] []) State.pc = some 0x3003 := by decide
/-- V50, mask 100 with cc = N, then mask 011 with cc = N. -/
theorem test_br_mask :
    after (mk 0x3000 [(0x3000, 0x0810)] [] FL_N) State.pc = some 0x3011 ∧
    after (mk 0x3000 [(0x3000, 0x0610)] [] FL_N) State.pc = some 0x3001 := by decide

/-- V22: a negative overflow wraps. -/
theorem test_add_register :
    after (mk 0x3000 [(0x3000, 0x14C4)] [(3, 0x8000), (4, 0xFFFF)]) (fun t => (t.x 2, t.cc, t.pc)) =
      some (0x7FFF, FL_P, 0x3001) := by decide
/-- V23: the destination is both sources. -/
theorem test_add_same_register :
    after (mk 0x3000 [(0x3000, 0x1241)] [(1, 0x4321)]) (fun t => (t.x 1, t.cc)) = some (0x8642, FL_N) := by decide
/-- V25: the most negative immediate. -/
theorem test_add_immediate :
    after (mk 0x3000 [(0x3000, 0x1B70)] [(5, 0x0005)]) (fun t => (t.x 5, t.cc)) = some (0xFFF5, FL_N) := by decide

/-- V30. -/
theorem test_and_register :
    after (mk 0x3000 [(0x3000, 0x5283)] [(2, 0xF0F0), (3, 0xFF00)]) (fun t => (t.x 1, t.cc)) =
      some (0xF000, FL_N) := by decide
/-- V32: the immediate is sign-extended before the AND. -/
theorem test_and_immediate :
    after (mk 0x3000 [(0x3000, 0x52B0)] [(2, 0xABCD)]) (fun t => (t.x 1, t.cc)) = some (0xABC0, FL_N) := by decide

/-- V37. -/
theorem test_not : after (mk 0x3000 [(0x3000, 0x903F)] [(0, 0xFFFF)]) (fun t => (t.x 0, t.cc)) = some (0, FL_Z) := by
  decide

/-- V58. -/
theorem test_jmp : after (mk 0x3000 [(0x3000, 0xC080)] [(2, 0x4000)]) (fun t => (t.pc, t.cc)) = some (0x4000, FL_Z) := by
  decide

/-- V62. -/
theorem test_jsr : after (mk 0x3000 [(0x3000, 0x4C00)] []) (fun t => (t.x 7, t.pc)) = some (0x3001, 0x2C01) := by decide

/-- V64. -/
theorem test_jsrr :
    after (mk 0x3000 [(0x3000, 0x40C0)] [(3, 0x5000), (7, 0x1111)]) (fun t => (t.x 7, t.pc)) =
      some (0x3001, 0x5000) := by decide
/-- V65: R7 is written before it is read as base. -/
theorem test_jsrr_r7 :
    after (mk 0x3000 [(0x3000, 0x41C0)] [(7, 0x1111)]) (fun t => (t.x 7, t.pc)) = some (0x3001, 0x3001) := by decide

/-- V70. -/
theorem test_ld :
    after (mk 0x3000 [(0x3000, 0x2202), (0x3003, 0xABCD)] []) (fun t => (t.x 1, t.cc)) = some (0xABCD, FL_N) := by
  decide
/-- V91: a ready status read. -/
theorem test_ld_status :
    after (mk 0xFDFF [(0xFDFF, 0x2000)] [] FL_Z [0x71] [true])
      (fun t => (t.x 0, t.mem.read 0xFE00, t.mem.read 0xFE02, t.input, t.cc)) =
      some (0x8000, 0x8000, 0x0071, [], FL_N) := by decide

/-- V74. -/
theorem test_ldi :
    after (mk 0x3000 [(0x3000, 0xA001), (0x3002, 0x4000), (0x4000, 0x0007)] []) (fun t => (t.x 0, t.cc)) =
      some (0x0007, FL_P) := by decide
/-- V94: the second read polls. -/
theorem test_ldi_status :
    after (mk 0x3000 [(0x3000, 0xA400), (0x3001, 0xFE00)] [] FL_Z [0x41] [true])
      (fun t => (t.x 2, t.mem.read 0xFE02, t.input)) = some (0x8000, 0x0041, []) := by decide

/-- V76: the base is the destination. -/
theorem test_ldr :
    after (mk 0x3000 [(0x3000, 0x6240), (0x4000, 0x8001)] [(1, 0x4000)]) (fun t => (t.x 1, t.cc)) =
      some (0x8001, FL_N) := by decide
/-- V77: the address wraps. -/
theorem test_ldr_wraps :
    after (mk 0x3000 [(0x0000, 0x0042), (0x3000, 0x6041)] [(1, 0xFFFF)]) (fun t => (t.x 0, t.cc)) =
      some (0x0042, FL_P) := by decide

/-- V82. -/
theorem test_lea :
    after (mk 0x7F00 [(0x7F00, 0xE6FF)] []) (fun t => (t.x 3, t.pc, t.cc)) = some (0x8000, 0x7F01, FL_N) := by decide

/-- V85: a store over the instruction itself. -/
theorem test_st :
    after (mk 0x3000 [(0x3000, 0x33FF)] [(1, 0xF025)]) (fun t => (t.mem.read 0x3000, t.pc, t.cc)) =
      some (0xF025, 0x3001, FL_Z) := by decide
/-- V96: a store to KBSR is plain. -/
theorem test_st_status :
    after (mk 0xFDFF [(0xFDFF, 0x3200)] [(1, 0x7FFF)] FL_Z [0x6B]) (fun t => (t.mem.read 0xFE00, t.input)) =
      some (0x7FFF, [0x6B]) := by decide

/-- V86. -/
theorem test_sti :
    after (mk 0x3000 [(0x3000, 0xB001), (0x3002, 0x4000)] [(0, 0x0041)])
      (fun t => (t.mem.read 0x4000, t.mem.read 0x3002)) = some (0x0041, 0x4000) := by decide
/-- V87: the pointer points to itself. -/
theorem test_sti_self :
    after (mk 0x3000 [(0x3000, 0xB000), (0x3001, 0x3001)] [(0, 0x0041)]) (fun t => t.mem.read 0x3001) =
      some 0x0041 := by decide

/-- V90: the address wraps below zero. -/
theorem test_str :
    after (mk 0x3000 [(0x3000, 0x707F)] [(0, 0xBEEF)]) (fun t => t.mem.read 0xFFFF) = some 0xBEEF := by decide

/-- V112: the byte is zero-extended. -/
theorem test_getc :
    after (mk 0x3000 [(0x3000, 0xF020)] [] FL_N [0xFF]) (fun t => (t.x 0, t.x 7, t.cc, out t)) =
      some (0x00FF, 0x3001, FL_P, []) := by decide
/-- V113: nothing to read. -/
theorem test_getc_blocked :
    after (mk 0x3000 [(0x3000, 0xF020)] [(0, 5)] FL_N) (fun t => (t.wait, t.run, t.x 0, t.x 7, t.pc, t.cc)) =
      some (some .getc, .running, 5, 0x3001, 0x3001, FL_N) := by decide

/-- V114. -/
theorem test_out :
    after (mk 0x3000 [(0x3000, 0xF021)] [(0, 0x1241)] FL_N) (fun t => (t.output, t.x 0, t.cc)) =
      some ([.char 0x41, .flush], 0x1241, FL_N) := by decide

/-- V118: high bytes are ignored, 0x4100 is not a terminator. -/
theorem test_puts :
    after (mk 0x3000 [(0x3000, 0xF022), (0x4000, 0x4141), (0x4001, 0x4100), (0x4002, 0x0042)] [(0, 0x4000)])
      (fun t => (t.output, t.run)) = some ([.char 0x41, .char 0x00, .char 0x42, .flush], .running) := by decide
/-- V119: no terminator up to 0xFFFF. -/
theorem test_puts_overrun :
    after (mk 0x3000 [(0x3000, 0xF022), (0xFFFE, 0x0058), (0xFFFF, 0x0059)] [(0, 0xFFFE)])
      (fun t => (t.output, t.run, t.x 7)) =
      some ([.char 0x58, .char 0x59], .aborted .stringOverrun, 0x3001) := by decide

/-- V121: the prompt "Enter a character: ", then the echo. -/
theorem test_in :
    after (mk 0x3000 [(0x3000, 0xF023)] [] FL_N [0x78]) (fun t => (t.x 0, t.cc, out t)) =
      some (0x0078, FL_P, ("Enter a character: ".toList.map fun c => BitVec.ofNat 8 c.toNat) ++ [0x78]) := by decide

/-- V123. -/
theorem test_putsp :
    after (mk 0x3000 [(0x3000, 0xF024), (0x4000, 0x6968), (0x4001, 0x0021)] [(0, 0x4000)]) out =
      some [0x68, 0x69, 0x21] := by decide
/-- V124: a zero low byte is written. -/
theorem test_putsp_zero_low :
    after (mk 0x3000 [(0x3000, 0xF024), (0x4000, 0x4100)] [(0, 0x4000)]) out = some [0x00, 0x41] := by decide

/-- V3, V125. -/
theorem test_halt :
    after (mk 0x3000 [(0x3000, 0xF025)] [] FL_N) (fun t => (t.run, t.x 7, t.pc, t.cc, out t)) =
      some (.halted, 0x3001, 0x3001, FL_N, [0x48, 0x41, 0x4C, 0x54, 0x0A]) := by decide

/-- V126. -/
theorem test_trap_undefined :
    after (mk 0x3000 [(0x3000, 0xF026)] [] FL_N) (fun t => (t.run, t.x 7, t.output)) =
      some (.aborted .illegalTrap, 0x3001, []) := by decide

/-- V131. -/
theorem test_res :
    after (mk 0x3000 [(0x3000, 0xDFFF)] []) (fun t => (t.run, t.pc, t.x 7)) =
      some (.aborted .illegalOpcode, 0x3001, 0) := by decide

/-- V133. -/
theorem test_rti :
    after (mk 0x3000 [(0x3000, 0x8ABC)] []) (fun t => (t.run, t.pc)) =
      some (.aborted .illegalOpcode, 0x3001) := by decide

/-- V98: a fetch at KBSR with a key available executes 0x8000. -/
theorem test_fetch_at_status :
    after (mk 0xFE00 [] [] FL_Z [0x6B] [true]) (fun t => (t.run, t.pc, t.mem.read 0xFE02, t.input)) =
      some (.aborted .illegalOpcode, 0xFE01, 0x006B, []) := by decide

/-- R262: an image with origin 0x3000, the more significant byte first. -/
theorem test_load_image :
    loadImage [] [0x30, 0x00, 0xF0, 0x25, 0x12, 0x34] = some [(0x3000, 0xF025), (0x3001, 0x1234)] := by decide

/-- The word placed by withFetchWord is the one the next step runs. -/
theorem test_withFetchWord : after (State.reset.withFetchWord 16 0x1065) (fun t => (t.x 0, t.cc)) = some (5, FL_P) := by
  decide

/-! ## Witnesses: for every obligation with hypotheses, states and operands that meet them -/

/-- Immediate -5 and a register that holds 0xFFFB (V7). -/
theorem witness_ModesAgreeOnEqualOperands :
    (mk 0x3001 [] [(1, 0x1234), (2, 0xFFFB)]).x 2 = (0x1B : BitVec 5).signExtend 16 := by decide

/-- Both cases of the sign bit at the least and the greatest width. -/
theorem witness_SextIsTwosComplement :
    (1 ≤ 1 ∧ 1 ≤ 16 ∧ (0 : BitVec 1).toNat < 2 ^ (1 - 1) ∧ 2 ^ (1 - 1) ≤ (1 : BitVec 1).toNat) ∧
    (1 ≤ 16 ∧ 16 ≤ 16 ∧ (0x7FFF : BitVec 16).toNat < 2 ^ (16 - 1) ∧ 2 ^ (16 - 1) ≤ (0x8000 : BitVec 16).toNat) := by
  decide

/-- The three cases of the flags at the ends of their ranges; the results stand beside them (V6). -/
theorem witness_FlagsTell :
    [0x8000, 0xFFFF, 0x0000, 0x0001, 0x7FFF].map ccOf = [FL_N, FL_N, FL_Z, FL_P, FL_P] := by decide

/-- A shared bit, and none. -/
theorem witness_BrBranchesIffMaskMeetsCc :
    (∃ k < 3, (0b110 : BitVec 3).getLsbD k = true ∧ (mk 0 [] [] FL_N).cc.getLsbD k = true) ∧
    ¬ ∃ k < 3, (0b011 : BitVec 3).getLsbD k = true ∧ (mk 0 [] [] FL_N).cc.getLsbD k = true := by decide

theorem witness_BrMaskBitsTestTheirFlags :
    (mk 0 [] [] FL_N).cc = Flag.negative.code ∧ (mk 0 [] [] FL_Z).cc = Flag.zero.code ∧
    (mk 0 [] [] FL_P).cc = Flag.positive.code := by decide

/-- Both clauses: base R3 and base R7. -/
theorem witness_JsrrLinksThenReadsBase : (3 : RegIdx) ≠ R7 ∧ (7 : RegIdx) = R7 := by decide

theorem witness_StAndStrStoreTheirWord : (mk 0xFFFF [(0xFFFF, 1), (0, 2)] []).mem.wf = true := by decide

theorem witness_StiStoresThroughThePointer :
    (mk 0x3001 [(0x3002, 0x4000)] []).memRead 0x3002 = (0x4000, mk 0x3001 [(0x3002, 0x4000)] []) ∧
    (mk 0x3001 [(0x3002, 0x4000)] []).mem.wf = true := by decide

/-- An LD that stays away from KBSR, a store, and addresses outside both lists. -/
theorem witness_MemoryAndInputFrameOfEveryInstruction :
    (mk 0x3001 [] []).params.kbsrAddr ∉ readsOf (mk 0x3001 [] []) (.ld 1 2) ∧
    (0xFFFF : Word) ∉ [0xFE00, 0xFE02] ++ storesOf (mk 0x3001 [] []) (.st 1 3) ∧
    Instr.st 1 3 ≠ .trapGetc ∧ Instr.st 1 3 ≠ .trapIn := by decide

theorem witness_MemWriteIsPlainStorage : (mk 0 [(0xFE00, 1), (0xFE02, 2)] []).mem.wf = true := by decide

/-- The keyboard-data address and the two neighbours of the status address. -/
theorem witness_OtherReadsArePlain :
    (0xFE02 : Word) ≠ State.reset.params.kbsrAddr ∧ (0xFDFF : Word) ≠ State.reset.params.kbsrAddr ∧
    (0xFE01 : Word) ≠ State.reset.params.kbsrAddr := by decide

/-- Both answers of the host. -/
theorem witness_StatusReadPollsTheKeyboard :
    (mk 0 [] [] FL_Z [0x71] [true]).mem.wf = true ∧ (mk 0 [] [] FL_Z [0x71] [true]).params.legal = true ∧
    (∃ v t, (mk 0 [] [] FL_Z [0x71] [true]).memRead 0xFE00 = (v, t)) ∧
    (mk 0 [] [] FL_Z [0x71] [true]).keyReady = true ∧ (mk 0 [] [] FL_Z [0x71] [false]).keyReady = false :=
  ⟨by decide, by decide, ⟨_, _, rfl⟩, by decide, by decide⟩

theorem witness_KeyAvailableNeedsInputAndAdmitsBoth :
    (mk 0 [] [] FL_Z [0x71] [true]).keyReady = true ∧ (mk 0 [] [] FL_Z [0x71] [false]).input ≠ [] ∧
    (mk 0 [] [] FL_Z [0x71] [false]).keyAnswers = false :: [] := by decide

/-- Two bytes waiting, the host answering true twice. -/
theorem witness_SecondStatusReadOverwritesKbdr :
    (mk 0 [] [] FL_Z [0x61, 0x62] [true, true]).mem.wf = true ∧
    (mk 0 [] [] FL_Z [0x61, 0x62] [true, true]).params.legal = true ∧
    (mk 0 [] [] FL_Z [0x61, 0x62] [true, true]).input = 0x61 :: 0x62 :: [] ∧
    (mk 0 [] [] FL_Z [0x61, 0x62] [true, true]).keyAnswers = true :: true :: [] := by decide

theorem witness_GetcTakesTheByteAfterTheOneInKbdr :
    (mk 0 [] [] FL_Z [0x61, 0x62] [true]).mem.wf = true ∧ (mk 0 [] [] FL_Z [0x61, 0x62] [true]).params.legal = true ∧
    (mk 0 [] [] FL_Z [0x61, 0x62] [true]).input = 0x61 :: 0x62 :: [] ∧
    (mk 0 [] [] FL_Z [0x61, 0x62] [true]).keyAnswers = true :: [] := by decide

/-- Program P5: ST over the next instruction. -/
theorem witness_FetchSeesTheStoredWord :
    (mk 0x3002 [(0x3002, 0x0FFF)] [(0, 0xF025)]).mem.wf = true ∧
    (mk 0x3002 [(0x3002, 0x0FFF)] [(0, 0xF025)]).pc + (0 : BitVec 9).signExtend 16 ≠
      (mk 0x3002 [(0x3002, 0x0FFF)] [(0, 0xF025)]).params.kbsrAddr := by decide

theorem witness_EveryTrapLinksR7AndKeepsPc : isTrap .trapGetc = true ∧ isTrap (.trapUndefined 0xFF) = true := by decide

/-- A zero byte and another one: both clauses on the flags. -/
theorem witness_GetcReadsOneByte :
    (mk 0 [] [] FL_N [0x00, 0xFF]).input = 0x00 :: [0xFF] ∧ (mk 0 [] [] FL_N [0xFF]).input = 0xFF :: [] := by decide

/-- Two words of memory, none of them zero. -/
theorem two_words_ne_zero {m : Memory} {a : Word} (h : m.read a ≠ 0) (h' : m.read (a + 1) ≠ 0) :
    ∀ w ∈ stringWords m a 2, w ≠ 0 := by
  rw [stringWords_succ, stringWords_succ]
  simpa [stringWords] using And.intro h h'

/-- A string of one word before a terminator at 0xFFFF itself (V120), and the empty string (V117). -/
theorem witness_PutsWritesTheString :
    StringAt (mk 0 [(0xFFFE, 0x0058)] [(0, 0xFFFE)]).mem ((mk 0 [(0xFFFE, 0x0058)] [(0, 0xFFFE)]).x R0) 1 ∧
    StringAt (mk 0 [] [(0, 0x4000)]).mem ((mk 0 [] [(0, 0x4000)]).x R0) 0 := by
  rw [show (mk 0 [(0xFFFE, 0x0058)] [(0, 0xFFFE)]).x R0 = 0xFFFE by decide,
    show (mk 0 [] [(0, 0x4000)]).x R0 = 0x4000 by decide]
  have h : (mk 0 [(0xFFFE, 0x0058)] [(0, 0xFFFE)]).mem.read 0xFFFE ≠ 0 := by decide
  exact ⟨⟨by decide, by rw [stringWords_succ]; simpa [stringWords] using h, by decide⟩,
    ⟨by decide, by simp [stringWords], by decide⟩⟩

theorem witness_PutspWritesThePackedString :
    StringAt (mk 0 [(0x4000, 0x6968), (0x4001, 0x0021)] [(0, 0x4000)]).mem
      ((mk 0 [(0x4000, 0x6968), (0x4001, 0x0021)] [(0, 0x4000)]).x R0) 2 := by
  rw [show (mk 0 [(0x4000, 0x6968), (0x4001, 0x0021)] [(0, 0x4000)]).x R0 = 0x4000 by decide]
  exact ⟨by decide, two_words_ne_zero (by decide) (by decide), by decide⟩

/-- V119. -/
theorem witness_StringOverrunAborts :
    NoStringAt (mk 0 [(0xFFFE, 0x0058), (0xFFFF, 0x0059)] [(0, 0xFFFE)]).mem
      ((mk 0 [(0xFFFE, 0x0058), (0xFFFF, 0x0059)] [(0, 0xFFFE)]).x R0) := by
  rw [show (mk 0 [(0xFFFE, 0x0058), (0xFFFF, 0x0059)] [(0, 0xFFFE)]).x R0 = 0xFFFE by decide, NoStringAt,
    show 65536 - (0xFFFE : Word).toNat = 2 by decide]
  exact two_words_ne_zero (by decide) (by decide)

theorem witness_InPromptsReadsAndEchoes :
    (mk 0 [] [] FL_N [0x00]).input = 0x00 :: [] ∧ (mk 0 [] [] FL_N [0x78]).input = 0x78 :: [] := by decide

theorem witness_BlockedReadCompletesWhenInputArrives :
    (mk 0x3001 [] []).run = .running ∧ (mk 0x3001 [] []).wait = none ∧ (mk 0x3001 [] []).input = [] := by decide

/-- The three cases of the run state. -/
theorem witness_NoStepAfterTheEnd :
    (mk 0 [] []).run = .running ∧ (mk 0 [] []).halt.run = .halted ∧
    ((mk 0 [] []).raise .externalCancel).run = .aborted .externalCancel := by decide

theorem witness_OnlyHaltHalts : ∃ t, step (mk 0x3000 [(0x3000, 0xF025)] []) = .next t ∧ t.run = .halted :=
  ⟨_, rfl, rfl⟩

/-- One for each cause a step can raise. -/
theorem witness_AbortCauseNamesItsInstruction :
    (∃ t, step (mk 0x3000 [(0x3000, 0xD000)] []) = .next t ∧ t.run = .aborted .illegalOpcode) ∧
    (∃ t, step (mk 0x3000 [(0x3000, 0xF0FF)] []) = .next t ∧ t.run = .aborted .illegalTrap) ∧
    ∃ t, step (mk 0x3000 [(0x3000, 0xF022), (0xFFFF, 0x0059)] [(0, 0xFFFF)]) = .next t ∧
      t.run = .aborted .stringOverrun :=
  ⟨⟨_, rfl, rfl⟩, ⟨_, rfl, rfl⟩, ⟨_, rfl, by decide⟩⟩

/-- A running and a halted run. -/
theorem witness_CancelEndsTheRun : (mk 0 [] []).run = .running ∧ (mk 0 [] []).halt.run ≠ .running := by decide

/-- A plain fetch, at the top of memory too. -/
theorem witness_StepRunsTheDecodedInstruction :
    (mk 0xFFFF [(0xFFFF, 0x14C4)] []).run = .running ∧ (mk 0xFFFF [(0xFFFF, 0x14C4)] []).wait = none ∧
    (mk 0xFFFF [(0xFFFF, 0x14C4)] []).memRead 0xFFFF = (0x14C4, mk 0xFFFF [(0xFFFF, 0x14C4)] []) ∧
    (mk 0xFFFF [(0xFFFF, 0x14C4)] []).pc ≠ (mk 0xFFFF [(0xFFFF, 0x14C4)] []).params.kbsrAddr ∧
    decode ((mk 0xFFFF [(0xFFFF, 0x14C4)] []).mem.read 0xFFFF) = .addReg 2 3 4 ∧
    ∃ t, step (mk 0xFFFF [(0xFFFF, 0x14C4)] []) = .next t :=
  ⟨rfl, rfl, by decide, by decide, by decide, ⟨_, rfl⟩⟩

/-- Both answers (V98, V99). -/
theorem witness_FetchAtKbsrExecutesThePoll :
    (mk 0xFE00 [] [] FL_Z [0x6B] [true]).run = .running ∧ (mk 0xFE00 [] [] FL_Z [0x6B] [true]).wait = none ∧
    (mk 0xFE00 [] [] FL_Z [0x6B] [true]).pc = (mk 0xFE00 [] [] FL_Z [0x6B] [true]).params.kbsrAddr ∧
    (mk 0xFE00 [] [] FL_Z [0x6B] [true]).mem.wf = true ∧ (mk 0xFE00 [] [] FL_Z [0x6B] [true]).params.legal = true ∧
    (mk 0xFE00 [] [] FL_Z [0x6B] [true]).keyReady = true ∧ (mk 0xFE00 [] [] FL_Z [0x6B] [false]).keyReady = false := by
  decide

/-- At the top of memory, where pc wraps (V83). -/
theorem witness_PcAdvancesByOneModulo65536 :
    (mk 0xFFFF [(0xFFFF, 0xE600)] []).wait = none ∧ (∃ t, step (mk 0xFFFF [(0xFFFF, 0xE600)] []) = .next t) ∧
    isControlTransfer (decode (mk 0xFFFF [(0xFFFF, 0xE600)] []).fetch.1) = false :=
  ⟨rfl, ⟨_, rfl⟩, by decide⟩

/-- A register that differs after each of the three ways to write one. -/
theorem witness_OnlyTheNamedRegisterChanges :
    (∃ t, exec (.notReg 3 4) (mk 0x3001 [] []) = .next t ∧ t.x 3 ≠ (mk 0x3001 [] []).x 3) ∧
    (∃ t, exec (.jsr 0) (mk 0x3001 [] []) = .next t ∧ t.x R7 ≠ (mk 0x3001 [] []).x R7) ∧
    ∃ t, exec .trapGetc (mk 0x3001 [] [] FL_Z [0x61]) = .next t ∧ t.x R0 ≠ (mk 0x3001 [] [] FL_Z [0x61]).x R0 :=
  ⟨⟨_, rfl, by decide⟩, ⟨_, rfl, by decide⟩, ⟨_, rfl, by decide⟩⟩

/-- One for each clause. -/
theorem witness_CcIsWrittenByResultsOnly :
    resultReg (.lea 3 0) = some 3 ∧ (mk 0 [] [] FL_Z [0x61]).input ≠ [] ∧ (mk 0 [] []).input = [] ∧
    resultReg (.jsr 0) = none ∧ Instr.jsr 0 ≠ .trapGetc ∧ Instr.jsr 0 ≠ .trapIn := by decide

theorem witness_OnlyBrReadsCc : ∀ cond o, Instr.trapPuts ≠ .br cond o := by
  intro cond o h; cases h

theorem witness_StreamsOnlyMoveForward : ∃ t, step (mk 0x3000 [(0x3000, 0xF023)] [] FL_Z [0x61]) = .next t :=
  ⟨_, rfl⟩

theorem witness_RegisterFileReadsLastWrite : (8 : Fin 10) = 8 ∧ (9 : Fin 10) ≠ 8 ∧ (0 : Fin 10) ≠ 9 := by decide

/-- A launch with nothing at its default. -/
theorem witness_InvHoldsAtLaunch :
    Memory.wf [(0x3000, 0xF025)] = true ∧ Config.Params.legal ⟨0x0000, 0xFFFF, [], [0x21]⟩ = true := by decide

theorem witness_StepKeepsInv : State.reset.Inv ∧ ∃ t, step State.reset = .next t :=
  ⟨⟨by decide, by decide, by decide, by decide⟩, ⟨_, rfl⟩⟩

/-- A step and an action of the host from reset. -/
theorem witness_EveryReachableStateHasOneFlag :
    Launch.default.mem.wf = true ∧ Launch.default.params.legal = true ∧
    ∃ t, Reaches (State.launch Launch.default) t ∧ t.run = .aborted .externalCancel :=
  ⟨by decide, by decide, ⟨_, .host .cancel (.step .refl rfl), rfl⟩⟩

/-- An image that ends exactly at 0xFFFF, and addresses below it. -/
theorem witness_LoadedImageIsInMemory :
    Memory.wf [(0x3000, 0xF025)] = true ∧ (0xFFFE : Word).toNat + [1, 2].length ≤ 65536 ∧
    (0xFFFD : Word).toNat < (0xFFFE : Word).toNat ∧
    (0x3000 : Word).toNat + [1, 2].length ≤ (0x3002 : Word).toNat := by decide

theorem witness_WithFetchWordRunsThatWord :
    State.reset.mem.wf = true ∧ State.reset.pc ≠ State.reset.params.kbsrAddr := by decide

theorem witness_DecodeEncodeRoundTrip : (Instr.br 7 0x1FF).wf = true ∧ (Instr.trapUndefined 0x26).wf = true := by decide

/-- The one overlap: HALT's word and the undefined-vector row. -/
theorem witness_TableRowsAreDisjoint :
    decodeTable[23].accepts 0xF025 = true ∧ decodeTable[24].accepts 0xF025 = true := by decide

/-- Two words that differ in an unused bit only. -/
theorem witness_ExactlyTheUnusedBitsAreIgnored :
    (0x14DC : Word) &&& (decode 0x14C4).usedMask = 0x14C4 &&& (decode 0x14C4).usedMask := by decide

end Sys2Proof.Tests
end

section
/-!
PROOFS, 10_state.md: the state a launch starts in, and what `setcc` writes.
-/
namespace Sys2Proof.Machine.State

/-! ### The state at launch (R36, R40) -/

section
variable (l : Launch)

@[simp] theorem launch_pc : (launch l).pc = 0x3000 := rfl
@[simp] theorem launch_run : (launch l).run = .running := rfl
@[simp] theorem launch_input : (launch l).input = l.input := rfl
@[simp] theorem launch_output : (launch l).output = [] := rfl

end

/-- R28: the frame of `setcc`: it is an update of `cc` alone. -/
theorem setcc_eq (s : State) (i : RegIdx) : s.setcc i = { s with cc := ccOf (s.x i) } := rfl

end Sys2Proof.Machine.State

namespace Sys2Proof.Proofs
open Sys2Proof.Machine Sys2Proof.Machine.State

/-- Settles O5: `setcc` writes `ccOf` of the register, whose three cases are `flagsTell_ccOf`. -/
theorem setccTellsTheSign : Obligations.SetccTellsTheSign := by
  intro s i
  rw [setcc_cc]
  exact ⟨flagsTell_ccOf (s.x i), setcc_eq s i⟩

/-- Settles O49: the four fields at every launch, of which reset is the default one. -/
theorem resetStartsAt3000Running : Obligations.ResetStartsAt3000Running :=
  ⟨fun l => ⟨launch_pc l, launch_run l, launch_input l, launch_output l⟩,
    launch_pc .default, launch_run .default, launch_output .default⟩

end Sys2Proof.Proofs
end

section
/-!
PROOFS, 20_memory.md: what a write through the memory interface does.
-/
namespace Sys2Proof.Proofs
open Sys2Proof.Machine Sys2Proof.Machine.State

/-- Settles O18: `memWrite` replaces the memory by `Memory.write`, at the keyboard's addresses as at any other, so the
read-back and the canonical form are the memory array's own laws; the frame is the store's. -/
theorem memWriteIsPlainStorage : Obligations.MemWriteIsPlainStorage := by
  intro s a v hwf
  rw [memWrite_mem]
  exact ⟨Memory.read_write_same hwf a v, Memory.wf_write hwf a v, memWrite_onlyStores s a v⟩

end Sys2Proof.Proofs
end

section
/-!
PROOFS, 30_encoding.md: the word that sign extension gives.
-/
namespace Sys2Proof.Proofs
open Sys2Proof.Machine

/-- R86: `sext` as a number: the field, with the bits from `n` up added where the sign bit is set. -/
theorem toNat_sext {n : Nat} (h1 : 1 ≤ n) (hn : n ≤ 16) (v : BitVec n) :
    (sext v).toNat = v.toNat + if 2 ^ (n - 1) ≤ v.toNat then 2 ^ 16 - 2 ^ n else 0 := by
  have hv : v.toNat < 2 ^ 16 := v.isLt.trans_le (Nat.pow_le_pow_right two_pos hn)
  rw [sext_eq_signExtend h1 hn, BitVec.toNat_signExtend, BitVec.toNat_setWidth, Nat.mod_eq_of_lt hv,
    BitVec.msb_eq_decide]
  simp only [decide_eq_true_eq]

/-- Settles O6: `sext` is `BitVec.signExtend`, which keeps the signed value; the two cases are those of `toNat_sext`. -/
theorem sextIsTwosComplement : Obligations.SextIsTwosComplement := by
  intro n h1 hn v
  have signed : (sext v).toInt = v.toInt := by
    rw [sext_eq_signExtend h1 hn, BitVec.toInt_signExtend_of_le hn]
  refine ⟨signed, fun clear => ?_, fun set => ?_⟩
  · rw [toNat_sext h1 hn, if_neg clear.not_ge, Nat.add_zero]
  · rw [toNat_sext h1 hn, if_pos set]

end Sys2Proof.Proofs
end

section
/-!
PROOFS, 40_operate.md: each operate instruction is one `setXcc`, of what the ALU gives (R120).
-/
namespace Sys2Proof.Machine

/-- R88: the second operand in immediate mode, as the library's sign extension. -/
theorem immOperand_eq_signExtend (imm5 : BitVec 5) : immOperand imm5 = imm5.signExtend 16 :=
  sext_eq_signExtend (by decide) (by decide) imm5

section
variable (dr sr sr1 sr2 : RegIdx) (imm5 : BitVec 5) (s : State)

theorem exec_addReg : exec (.addReg dr sr1 sr2) s = .next (s.setXcc dr (s.x sr1 + s.x sr2)) := rfl

theorem exec_addImm : exec (.addImm dr sr1 imm5) s = .next (s.setXcc dr (s.x sr1 + imm5.signExtend 16)) := by
  rw [← immOperand_eq_signExtend]; rfl

theorem exec_andReg : exec (.andReg dr sr1 sr2) s = .next (s.setXcc dr (s.x sr1 &&& s.x sr2)) := rfl

theorem exec_andImm : exec (.andImm dr sr1 imm5) s = .next (s.setXcc dr (s.x sr1 &&& imm5.signExtend 16)) := by
  rw [← immOperand_eq_signExtend]; rfl

theorem exec_notReg : exec (.notReg dr sr) s = .next (s.setXcc dr (~~~s.x sr)) := rfl

end

/-- R126: what an outcome that is one `setXcc` says of its next state: the result, its flag, and the frame. -/
theorem result_of_eq_setXcc {o : Host.Outcome State Fault Refusal} {s : State} {dr : RegIdx} {v : Word}
    (h : o = .next (s.setXcc dr v)) :
    ∃ t, o = .next t ∧ t.x dr = v ∧ FlagsTell (t.x dr) t.cc ∧ OnlyResult dr s t :=
  ⟨s.setXcc dr v, h, s.setXcc_x_same dr v, setXcc_flagsTell s dr v, setXcc_onlyResult s dr v⟩

end Sys2Proof.Machine

namespace Sys2Proof.Proofs
open Sys2Proof.Machine

/-- Settles O4: each mode's meaning depends on its second operand only through the word the operand has, and the
hypothesis makes the two words equal. -/
theorem modesAgreeOnEqualOperands : Obligations.ModesAgreeOnEqualOperands := by
  intro dr sr1 sr2 imm5 s equalOperands
  constructor
  · rw [exec_addImm, exec_addReg, equalOperands]
  · rw [exec_andImm, exec_andReg, equalOperands]

/-- Settles O1: both modes are one `setXcc` of the sum. -/
theorem addWritesSumAndFlags : Obligations.AddWritesSumAndFlags :=
  ⟨fun dr sr1 sr2 s => result_of_eq_setXcc (exec_addReg dr sr1 sr2 s),
    fun dr sr1 imm5 s => result_of_eq_setXcc (exec_addImm dr sr1 imm5 s)⟩

/-- Settles O2: both modes are one `setXcc` of the conjunction. -/
theorem andWritesConjunctionAndFlags : Obligations.AndWritesConjunctionAndFlags :=
  ⟨fun dr sr1 sr2 s => result_of_eq_setXcc (exec_andReg dr sr1 sr2 s),
    fun dr sr1 imm5 s => result_of_eq_setXcc (exec_andImm dr sr1 imm5 s)⟩

/-- Settles O3: NOT is one `setXcc` of the complement, which as a number is 0xFFFF minus the operand (R120). -/
theorem notWritesComplementAndFlags : Obligations.NotWritesComplementAndFlags := by
  intro dr sr s
  obtain ⟨t, next, result, flags, frame⟩ := result_of_eq_setXcc (exec_notReg dr sr s)
  have complement : (t.x dr).toNat = 0xFFFF - (s.x sr).toNat := by rw [result, BitVec.toNat_not]
  exact ⟨t, next, complement, flags, frame⟩

end Sys2Proof.Proofs
end

section
/-!
PROOFS, 41_control.md: a jump is one `setPc`, a call is the link into R7 and then a `setPc` (R140, R141).
-/
namespace Sys2Proof.Machine

/-- R140, R168: a PC-relative address, with the library's sign extension. -/
theorem pcRelative_eq_signExtend {n : Nat} (h1 : 1 ≤ n) (hn : n ≤ 16) (s : State) (offset : BitVec n) :
    s.pcRelative offset = s.pc + offset.signExtend 16 :=
  congrArg (s.pc + ·) (sext_eq_signExtend h1 hn offset)

theorem exec_jmp (baseR : RegIdx) (s : State) : exec (.jmp baseR) s = .next (s.setPc (s.x baseR)) := rfl

/-- R145: the target is formed from the pc that the link saves, which the write of R7 leaves. -/
theorem exec_jsr (offset11 : BitVec 11) (s : State) :
    exec (.jsr offset11) s = .next ((s.setX R7 s.pc).setPc (s.pc + offset11.signExtend 16)) := by
  rw [← pcRelative_eq_signExtend (by decide) (by decide)]; rfl

/-- R141: the frame of a call: the link and the jump change R7 and pc only. -/
theorem setX_R7_setPc_onlyLinkAndPc (s : State) (link target : Word) :
    OnlyLinkAndPc s ((s.setX R7 link).setPc target) :=
  ⟨fun r hr => s.setX_x_ne R7 r link (by simpa using hr), rfl, fun _ => rfl, ⟨rfl, rfl, rfl⟩, rfl, ⟨rfl, rfl, rfl⟩⟩

end Sys2Proof.Machine

namespace Sys2Proof.Proofs
open Sys2Proof.Machine Sys2Proof.Machine.State

/-- Settles O9: JMP is one `setPc` of the base register, which is an update of `pc` alone. -/
theorem jmpSetsPcToBase : Obligations.JmpSetsPcToBase := fun baseR s => exec_jmp baseR s

/-- Settles O10: JSR is the link and the jump of `exec_jsr`; the jump leaves the R7 that the link wrote. -/
theorem jsrLinksAndJumps : Obligations.JsrLinksAndJumps := by
  intro offset11 s
  have link : ((s.setX R7 s.pc).setPc (s.pc + offset11.signExtend 16)).x R7 = s.pc := by
    rw [setPc_x, setX_x_same]
  exact ⟨_, exec_jsr offset11 s, link, setPc_pc _ _, setX_R7_setPc_onlyLinkAndPc s _ _⟩

end Sys2Proof.Proofs
end

section
/-!
PROOFS, 42_load_store.md: a load is one `loadFrom`, a store one `memWrite`, LEA one `setXcc`, each at the address of
R168; LDI and STI do theirs in the state that the read of the pointer left.
-/
namespace Sys2Proof.Machine

/-- R168: a base-plus-offset address, with the library's sign extension. -/
theorem basePlus_eq_signExtend (s : State) (baseR : RegIdx) (offset6 : BitVec 6) :
    s.basePlus baseR offset6 = s.x baseR + offset6.signExtend 16 :=
  congrArg (s.x baseR + ·) (sext_eq_signExtend (by decide) (by decide) offset6)

section
variable (dr sr baseR : RegIdx) (offset6 : BitVec 6) (offset9 : BitVec 9) (s : State)

theorem exec_ld : exec (.ld dr offset9) s = .next (s.loadFrom dr (s.pc + offset9.signExtend 16)) := by
  rw [← pcRelative_eq_signExtend (by decide) (by decide)]; rfl

theorem exec_ldr : exec (.ldr dr baseR offset6) s = .next (s.loadFrom dr (s.x baseR + offset6.signExtend 16)) := by
  rw [← basePlus_eq_signExtend]; rfl

/-- R161: the load of LDI is made in the state the pointer's read left, at the pointer. -/
theorem exec_ldi :
    exec (.ldi dr offset9) s =
      .next ((s.memRead (s.pc + offset9.signExtend 16)).2.loadFrom dr
        (s.memRead (s.pc + offset9.signExtend 16)).1) := by
  rw [← pcRelative_eq_signExtend (by decide) (by decide)]; rfl

theorem exec_lea : exec (.lea dr offset9) s = .next (s.setXcc dr (s.pc + offset9.signExtend 16)) := by
  rw [← pcRelative_eq_signExtend (by decide) (by decide)]; rfl

theorem exec_st : exec (.st sr offset9) s = .next (s.memWrite (s.pc + offset9.signExtend 16) (s.x sr)) := by
  rw [← pcRelative_eq_signExtend (by decide) (by decide)]; rfl

theorem exec_str :
    exec (.str sr baseR offset6) s = .next (s.memWrite (s.x baseR + offset6.signExtend 16) (s.x sr)) := by
  rw [← basePlus_eq_signExtend]; rfl

/-- R165: the store of STI is made in the state the pointer's read left, at the pointer. -/
theorem exec_sti :
    exec (.sti sr offset9) s =
      .next ((s.memRead (s.pc + offset9.signExtend 16)).2.memWrite
        (s.memRead (s.pc + offset9.signExtend 16)).1 (s.x sr)) := by
  rw [← pcRelative_eq_signExtend (by decide) (by decide)]; rfl

end

/-- R170: what an outcome that is one `loadFrom` says of its next state: the word read, its flag, and the frame from
the state the read left. -/
theorem loaded_of_eq_loadFrom {o : Host.Outcome State Fault Refusal} {s : State} {dr : RegIdx} {ea : Word}
    (h : o = .next (s.loadFrom dr ea)) :
    ∃ t, o = .next t ∧ t.x dr = (s.memRead ea).1 ∧ FlagsTell (t.x dr) t.cc ∧ OnlyResult dr (s.memRead ea).2 t :=
  result_of_eq_setXcc h

/-- R55: what an outcome that is one `memWrite` says of its next state: the word reads back from a canonical memory,
and the frame. -/
theorem stored_of_eq_memWrite {o : Host.Outcome State Fault Refusal} {s : State} {a v : Word}
    (h : o = .next (s.memWrite a v)) :
    ∃ t, o = .next t ∧ (s.mem.wf = true → t.mem.read a = v) ∧ OnlyStores [a] s t :=
  ⟨s.memWrite a v, h, fun wf => Memory.read_write_same wf a v, memWrite_onlyStores s a v⟩

end Sys2Proof.Machine

namespace Sys2Proof.Proofs
open Sys2Proof.Machine Sys2Proof.Machine.State

/-- Settles O12: both are one `loadFrom`, each at its own address. -/
theorem ldAndLdrLoadTheirWord : Obligations.LdAndLdrLoadTheirWord :=
  ⟨fun dr offset9 s => loaded_of_eq_loadFrom (exec_ld dr offset9 s),
    fun dr baseR offset6 s => loaded_of_eq_loadFrom (exec_ldr dr baseR offset6 s)⟩

/-- Settles O13: the pointer and the state its read left are the two halves of the first `memRead`; the load is made
from them. -/
theorem ldiReadsThePointerThenTheWord : Obligations.LdiReadsThePointerThenTheWord := by
  intro dr offset9 s
  obtain ⟨t, next, loaded⟩ := loaded_of_eq_loadFrom (exec_ldi dr offset9 s)
  exact ⟨t, next, _, _, rfl, loaded⟩

/-- Settles O14: LEA is one `setXcc` of the address, in the state itself. -/
theorem leaWritesTheAddress : Obligations.LeaWritesTheAddress :=
  fun dr offset9 s => result_of_eq_setXcc (exec_lea dr offset9 s)

/-- Settles O15: both are one `memWrite` of the source register, each at its own address. -/
theorem stAndStrStoreTheirWord : Obligations.StAndStrStoreTheirWord :=
  ⟨fun sr offset9 s => stored_of_eq_memWrite (exec_st sr offset9 s),
    fun sr baseR offset6 s => stored_of_eq_memWrite (exec_str sr baseR offset6 s)⟩

/-- Settles O16: the store is made in the state the pointer's read left; that read may poll the keyboard, which keeps a
canonical memory canonical (`afterRead_wf`), so the word reads back. -/
theorem stiStoresThroughThePointer : Obligations.StiStoresThroughThePointer := by
  intro sr offset9 s
  obtain ⟨t, next, readBack, frame⟩ := stored_of_eq_memWrite (exec_sti sr offset9 s)
  exact ⟨t, next, _, _, rfl, fun wf => readBack (s.afterRead_wf wf _), frame⟩

end Sys2Proof.Proofs
end

section
/-!
PROOFS, 43_trap.md: every trap routine runs in the state that the link into R7 left (R190); OUT and HALT write bytes
and flush there.
-/
namespace Sys2Proof.Machine

/-- R192: OUT writes the low byte of the R0 that TRAP found: the link leaves R0. -/
theorem exec_trapOut (s : State) :
    exec .trapOut s = .next ((s.trapEntry.emit [(s.x R0).extractLsb' 0 8]).flush) := by
  rw [← s.trapEntry_x_R0, ← State.out_eq]; rfl

/-- R196: HALT writes the notice of the parameters that TRAP found: the link leaves them. -/
theorem exec_trapHalt (s : State) :
    exec .trapHalt s = .next ((s.trapEntry.emit s.params.haltNotice).flush).halt := by
  rw [← s.trapEntry_params, ← State.haltRoutine_eq]; rfl

/-- R190: the link is the whole frame of a TRAP. -/
theorem trapFrame_trapEntry (s : State) : TrapFrame [] s s.trapEntry :=
  ⟨s.trapEntry_x_R7, fun r hr => s.trapEntry_x_ne r (by simpa using hr), rfl, fun _ => rfl, rfl⟩

section
variable {rs : List RegIdx} {s t : State}

/-- R242: writing characters keeps the frame of a TRAP. -/
theorem TrapFrame.emit (h : TrapFrame rs s t) (bytes : List Byte) : TrapFrame rs s (t.emit bytes) := h

/-- R243: a flush keeps the frame of a TRAP. -/
theorem TrapFrame.flush (h : TrapFrame rs s t) : TrapFrame rs s t.flush := h

/-- R196: halting the run keeps the frame of a TRAP. -/
theorem TrapFrame.halt (h : TrapFrame rs s t) : TrapFrame rs s t.halt := h

end

/-- R33: a halted state has no next state, since `step_cases` finds every state that steps running. -/
theorem step_halt_ne_next (s u : State) : step s.halt ≠ .next u := by
  intro next
  obtain ⟨running, -⟩ := step_cases next
  rw [State.halt_run] at running
  cases running

end Sys2Proof.Machine

namespace Sys2Proof.Proofs
open Sys2Proof.Machine Sys2Proof.Machine.State

/-- Settles O27: the byte written is bits 7:0 of R0, as a number the remainder by 256; the rest is the link's frame,
which writing and flushing keep. -/
theorem outWritesLowByteOfR0 : Obligations.OutWritesLowByteOfR0 := by
  intro s
  have lowByte : ((s.x R0).extractLsb' 0 8).toNat = (s.x R0).toNat % 256 := BitVec.extractLsb'_toNat ..
  have output : ((s.trapEntry.emit [(s.x R0).extractLsb' 0 8]).flush).output =
      s.output ++ [.char ((s.x R0).extractLsb' 0 8), .flush] := by simp
  exact ⟨_, exec_trapOut s, ⟨_, lowByte, output⟩, rfl, ((trapFrame_trapEntry s).emit _).flush,
    ⟨rfl, rfl, rfl⟩, ⟨rfl, rfl, rfl⟩⟩

/-- Settles O32: the notice and a flush keep the link's frame, and `halt` changes `run` alone, to the value from which
`step` answers no next state. -/
theorem haltWritesNoticeAndHalts : Obligations.HaltWritesNoticeAndHalts := by
  intro s
  have frame : TrapFrame [] s ((s.trapEntry.emit s.params.haltNotice).flush).halt :=
    ((trapFrame_trapEntry s).emit _).flush.halt
  exact ⟨_, exec_trapHalt s, halt_run _, rfl, rfl, rfl, frame, ⟨rfl, rfl, rfl⟩, step_halt_ne_next _⟩

end Sys2Proof.Proofs
end

section
/-!
PROOFS, 70_reset_and_hazards.md: a step of a running, unblocked state is `exec` of what the fetch gave (R264).
-/
namespace Sys2Proof.Machine

/-- R264: the two halves of the fetch, from the fetch's `MemRead`: the word as read, and the state that the read left
with pc incremented; a poll leaves pc. -/
theorem State.fetch_of_memRead {s u : State} {ir : Word} (read : s.memRead s.pc = (ir, u)) :
    s.fetch = (ir, u.setPc (s.pc + 1)) := by
  have pcKept : u.pc = s.pc := by
    rw [← s.afterRead_pc s.pc, ← s.memRead_snd, read]
  rw [State.fetch, read, pcKept]

/-- R264: with the run going on and no read blocked, `step` takes its last branch. -/
theorem step_of_running {s : State} (running : s.run = .running) (unblocked : s.wait = none) :
    step s = exec (decode s.fetch.1) s.fetch.2 := by
  simp only [step, running, unblocked]

/-- R264: the step from the fetch's `MemRead`. -/
theorem step_of_memRead {s u : State} {ir : Word} (running : s.run = .running) (unblocked : s.wait = none)
    (read : s.memRead s.pc = (ir, u)) : step s = exec (decode ir) (u.setPc (s.pc + 1)) := by
  rw [step_of_running running unblocked, State.fetch_of_memRead read]

end Sys2Proof.Machine

namespace Sys2Proof.Proofs
open Sys2Proof.Machine Sys2Proof.Machine.State

/-- Settles O40: the first clause is `step_of_memRead`, and the second is its case of a read that does not poll
(`memRead_of_ne`); by `step_cases` only a running state steps. -/
theorem stepRunsTheDecodedInstruction : Obligations.StepRunsTheDecodedInstruction := by
  refine ⟨fun s u ir running unblocked read => ?_, fun s i running unblocked away decoded => ?_, fun s t next => ?_⟩
  · exact step_of_memRead running unblocked read
  · rw [← decoded]
    exact step_of_memRead running unblocked (s.memRead_of_ne away)
  · exact (step_cases next).1

end Sys2Proof.Proofs
end

section
/-!
PROOFS, 30_encoding.md: a word by its fields. Each field is a run of bits, so that two words have the same field exactly
if they agree under the field's mask; the masks of the table (R92) and of the used bits (R84, R96) are unions of such.
-/
namespace Sys2Proof

/-! ### The round trip -/

theorem decode_formatTRAP (v : BitVec 8) : decode (formatTRAP v) = decodeTrap v := by
  simp [decode, opcodeOfNibble_nibbleOfOpcode]

/-- Where an instruction has no vector, its opcode selects its arm of the decoder and each field reads back from its
format; where it has one, `decodeTrap` decides, which well-formedness lets through for the last row. -/
theorem decode_encode {i : Instr} (wf : i.wf = true) : decode (encode i) = i := by
  cases i with
  | trapGetc | trapOut | trapPuts | trapIn | trapPutsp | trapHalt => exact decode_formatTRAP _
  | trapUndefined v => rw [encode, decode_formatTRAP, decodeTrap_of_wf wf]
  | _ => simp [encode, decode, opcodeOfNibble_nibbleOfOpcode]

/-! ### Fields and masks -/

/-- The mask with ones in the `l` bits from bit `k` on. -/
def fieldOnes (k l : Nat) : Word := (BitVec.allOnes l).setWidth 16 <<< k

theorem getLsbD_fieldOnes {k l i : Nat} (hi : i < 16) : (fieldOnes k l).getLsbD i = decide (k ≤ i ∧ i < k + l) := by
  rw [fieldOnes, BitVec.getLsbD_shiftLeft, BitVec.getLsbD_setWidth, BitVec.getLsbD_allOnes]
  grind

theorem and_FFFF (w : Word) : w &&& 0xFFFF#16 = w := BitVec.and_allOnes

section
variable {v w : Word}

/-- Two words agree under a mask exactly if they have the same bits where it is set. -/
theorem and_eq_and_iff {m : Word} :
    v &&& m = w &&& m ↔ ∀ i < 16, m.getLsbD i = true → v.getLsbD i = w.getLsbD i := by
  simp only [BitVec.eq_of_getLsbD_eq_iff, BitVec.getLsbD_and]
  grind

theorem extract_eq_iff {k l : Nat} (h : k + l ≤ 16) :
    v.extractLsb' k l = w.extractLsb' k l ↔ v &&& fieldOnes k l = w &&& fieldOnes k l := by
  rw [and_eq_and_iff, BitVec.eq_of_getLsbD_eq_iff]
  simp only [BitVec.getLsbD_extractLsb']
  constructor
  · intro same i hi set
    rw [getLsbD_fieldOnes hi, decide_eq_true_eq] at set
    simpa [show i - k < l by omega, Nat.add_sub_cancel' set.1] using same (i - k) (by omega)
  · intro same i hi
    rw [same (k + i) (by omega) (by simp [getLsbD_fieldOnes (show k + i < 16 by omega), hi])]

theorem getLsbD_eq_iff {k : Nat} (h : k + 1 ≤ 16) :
    v.getLsbD k = w.getLsbD k ↔ v &&& fieldOnes k 1 = w &&& fieldOnes k 1 := by
  rw [← extract_eq_iff h, getLsbD_eq_extract, getLsbD_eq_extract]
  generalize v.extractLsb' k 1 = a, w.extractLsb' k 1 = b
  revert a b; decide

theorem fieldOpcode_eq_iff : fieldOpcode v = fieldOpcode w ↔ v &&& 0xF000#16 = w &&& 0xF000#16 :=
  extract_eq_iff (k := 12) (l := 4) (by decide)
theorem fieldR0_eq_iff : fieldR0 v = fieldR0 w ↔ v &&& 0x0E00#16 = w &&& 0x0E00#16 :=
  BitVec.toFin_inj.trans (extract_eq_iff (k := 9) (l := 3) (by decide))
theorem fieldCond_eq_iff : fieldCond v = fieldCond w ↔ v &&& 0x0E00#16 = w &&& 0x0E00#16 :=
  extract_eq_iff (k := 9) (l := 3) (by decide)
theorem fieldLong_eq_iff : fieldLong v = fieldLong w ↔ v &&& 0x0800#16 = w &&& 0x0800#16 :=
  getLsbD_eq_iff (k := 11) (by decide)
theorem fieldR1_eq_iff : fieldR1 v = fieldR1 w ↔ v &&& 0x01C0#16 = w &&& 0x01C0#16 :=
  BitVec.toFin_inj.trans (extract_eq_iff (k := 6) (l := 3) (by decide))
theorem fieldMode_eq_iff : fieldMode v = fieldMode w ↔ v &&& 0x0020#16 = w &&& 0x0020#16 :=
  getLsbD_eq_iff (k := 5) (by decide)
theorem fieldImm5_eq_iff : fieldImm5 v = fieldImm5 w ↔ v &&& 0x001F#16 = w &&& 0x001F#16 :=
  extract_eq_iff (k := 0) (l := 5) (by decide)
theorem fieldR2_eq_iff : fieldR2 v = fieldR2 w ↔ v &&& 0x0007#16 = w &&& 0x0007#16 :=
  BitVec.toFin_inj.trans (extract_eq_iff (k := 0) (l := 3) (by decide))
theorem fieldOffset6_eq_iff : fieldOffset6 v = fieldOffset6 w ↔ v &&& 0x003F#16 = w &&& 0x003F#16 :=
  extract_eq_iff (k := 0) (l := 6) (by decide)
theorem fieldOffset9_eq_iff : fieldOffset9 v = fieldOffset9 w ↔ v &&& 0x01FF#16 = w &&& 0x01FF#16 :=
  extract_eq_iff (k := 0) (l := 9) (by decide)
theorem fieldOffset11_eq_iff : fieldOffset11 v = fieldOffset11 w ↔ v &&& 0x07FF#16 = w &&& 0x07FF#16 :=
  extract_eq_iff (k := 0) (l := 11) (by decide)
theorem fieldTrapvect8_eq_iff : fieldTrapvect8 v = fieldTrapvect8 w ↔ v &&& 0x00FF#16 = w &&& 0x00FF#16 :=
  extract_eq_iff (k := 0) (l := 8) (by decide)

/-- Agreement under a union of masks is agreement under each. -/
theorem and_or_eq_iff {m n : Word} :
    v &&& (m ||| n) = w &&& (m ||| n) ↔ v &&& m = w &&& m ∧ v &&& n = w &&& n := by
  simp only [and_eq_and_iff, BitVec.getLsbD_or]
  grind

/-- Words that agree under a mask agree under every smaller one. -/
theorem and_eq_of_subset {m n : Word} (h : v &&& m = w &&& m) (hn : m &&& n = n) : v &&& n = w &&& n := by
  rw [← hn, ← BitVec.and_assoc, h, BitVec.and_assoc]

/-! The masks of R92 and the used bits of R84, each by the fields it is made of. -/

theorem and_F020_eq_iff :
    v &&& 0xF020#16 = w &&& 0xF020#16 ↔ fieldOpcode v = fieldOpcode w ∧ fieldMode v = fieldMode w := by
  simp only [fieldOpcode_eq_iff, fieldMode_eq_iff, ← and_or_eq_iff, BitVec.reduceOr]

theorem and_F800_eq_iff :
    v &&& 0xF800#16 = w &&& 0xF800#16 ↔ fieldOpcode v = fieldOpcode w ∧ fieldLong v = fieldLong w := by
  simp only [fieldOpcode_eq_iff, fieldLong_eq_iff, ← and_or_eq_iff, BitVec.reduceOr]

theorem and_F0FF_eq_iff :
    v &&& 0xF0FF#16 = w &&& 0xF0FF#16 ↔ fieldOpcode v = fieldOpcode w ∧ fieldTrapvect8 v = fieldTrapvect8 w := by
  simp only [fieldOpcode_eq_iff, fieldTrapvect8_eq_iff, ← and_or_eq_iff, BitVec.reduceOr]

theorem and_F1C0_eq_iff :
    v &&& 0xF1C0#16 = w &&& 0xF1C0#16 ↔ fieldOpcode v = fieldOpcode w ∧ fieldR1 v = fieldR1 w := by
  simp only [fieldOpcode_eq_iff, fieldR1_eq_iff, ← and_or_eq_iff, BitVec.reduceOr]

theorem and_F9C0_eq_iff :
    v &&& 0xF9C0#16 = w &&& 0xF9C0#16 ↔
      fieldOpcode v = fieldOpcode w ∧ fieldLong v = fieldLong w ∧ fieldR1 v = fieldR1 w := by
  simp only [fieldOpcode_eq_iff, fieldLong_eq_iff, fieldR1_eq_iff, ← and_or_eq_iff, BitVec.reduceOr]

theorem and_FFC0_eq_iff :
    v &&& 0xFFC0#16 = w &&& 0xFFC0#16 ↔
      fieldOpcode v = fieldOpcode w ∧ fieldR0 v = fieldR0 w ∧ fieldR1 v = fieldR1 w := by
  simp only [fieldOpcode_eq_iff, fieldR0_eq_iff, fieldR1_eq_iff, ← and_or_eq_iff, BitVec.reduceOr]

theorem and_FFE7_eq_iff :
    v &&& 0xFFE7#16 = w &&& 0xFFE7#16 ↔ fieldOpcode v = fieldOpcode w ∧ fieldR0 v = fieldR0 w ∧ fieldR1 v = fieldR1 w ∧
      fieldMode v = fieldMode w ∧ fieldR2 v = fieldR2 w := by
  simp only [fieldOpcode_eq_iff, fieldR0_eq_iff, fieldR1_eq_iff, fieldMode_eq_iff, fieldR2_eq_iff, ← and_or_eq_iff,
    BitVec.reduceOr]

/-! Formats without an unused bit: the whole word by its fields. -/

theorem eq_iff_fieldsPCM :
    v = w ↔ fieldOpcode v = fieldOpcode w ∧ fieldR0 v = fieldR0 w ∧ fieldOffset9 v = fieldOffset9 w := by
  simp only [fieldOpcode_eq_iff, fieldR0_eq_iff, fieldOffset9_eq_iff, ← and_or_eq_iff, BitVec.reduceOr, and_FFFF]

theorem eq_iff_fieldsBR :
    v = w ↔ fieldOpcode v = fieldOpcode w ∧ fieldCond v = fieldCond w ∧ fieldOffset9 v = fieldOffset9 w := by
  simp only [fieldOpcode_eq_iff, fieldCond_eq_iff, fieldOffset9_eq_iff, ← and_or_eq_iff, BitVec.reduceOr, and_FFFF]

theorem eq_iff_fieldsOPI :
    v = w ↔ fieldOpcode v = fieldOpcode w ∧ fieldR0 v = fieldR0 w ∧ fieldR1 v = fieldR1 w ∧
      fieldMode v = fieldMode w ∧ fieldImm5 v = fieldImm5 w := by
  simp only [fieldOpcode_eq_iff, fieldR0_eq_iff, fieldR1_eq_iff, fieldMode_eq_iff, fieldImm5_eq_iff, ← and_or_eq_iff,
    BitVec.reduceOr, and_FFFF]

theorem eq_iff_fieldsBRM :
    v = w ↔ fieldOpcode v = fieldOpcode w ∧ fieldR0 v = fieldR0 w ∧ fieldR1 v = fieldR1 w ∧
      fieldOffset6 v = fieldOffset6 w := by
  simp only [fieldOpcode_eq_iff, fieldR0_eq_iff, fieldR1_eq_iff, fieldOffset6_eq_iff, ← and_or_eq_iff,
    BitVec.reduceOr, and_FFFF]

theorem eq_iff_fieldsJSR :
    v = w ↔ fieldOpcode v = fieldOpcode w ∧ fieldLong v = fieldLong w ∧ fieldOffset11 v = fieldOffset11 w := by
  simp only [fieldOpcode_eq_iff, fieldLong_eq_iff, fieldOffset11_eq_iff, ← and_or_eq_iff, BitVec.reduceOr, and_FFFF]

end

/-! ### Decoding and the used bits (R96) -/

/-- R91: every row of opcode 15 uses the opcode and the vector. -/
theorem decodeTrap_usedMask (v : BitVec 8) : (decodeTrap v).usedMask = 0xF0FF#16 := by
  revert v; decide

theorem encode_decodeTrap (v : BitVec 8) : encode (decodeTrap v) = formatTRAP v := by
  revert v; decide

theorem usedMask_opcode (i : Instr) : i.usedMask &&& 0xF000#16 = 0xF000#16 := by
  cases i <;> simp only [Instr.usedMask] <;> decide

/-- R90: the opcode field of a word whose opcode is known. -/
theorem fieldOpcode_eq_nibble {w : Word} {op : Opcode} (h : opcodeOfNibble (fieldOpcode w) = op) :
    fieldOpcode w = nibbleOfOpcode op := by
  rw [← h, nibbleOfOpcode_opcodeOfNibble]

/-- R96: encoding a decoded word gives back its used bits: by opcode and mode, the format holds the very fields that the
decoder took, and the used mask is made of these. -/
theorem encode_decode_agrees (w : Word) : encode (decode w) &&& (decode w).usedMask = w &&& (decode w).usedMask := by
  cases e : opcodeOfNibble (fieldOpcode w)
  all_goals have op := (fieldOpcode_eq_nibble e).symm
  case br => simp [decode, e, encode, Instr.usedMask, and_FFFF, eq_iff_fieldsBR, op]
  case ld | st | ldi | sti | lea => simp [decode, e, encode, Instr.usedMask, and_FFFF, eq_iff_fieldsPCM, op]
  case ldr | str => simp [decode, e, encode, Instr.usedMask, and_FFFF, eq_iff_fieldsBRM, op]
  case not => simp [decode, e, encode, Instr.usedMask, and_FFC0_eq_iff, op]
  case rti | res => simp [decode, e, encode, Instr.usedMask, ← fieldOpcode_eq_iff, op]
  case jmp => simp [decode, e, encode, Instr.usedMask, and_F1C0_eq_iff, op]
  case trap => simp [decode, e, encode_decodeTrap, decodeTrap_usedMask, and_F0FF_eq_iff, op]
  case jsr =>
    cases long : fieldLong w
    · simp [decode, e, long, encode, Instr.usedMask, and_F9C0_eq_iff, op]
    · simp [decode, e, long, encode, Instr.usedMask, and_FFFF, eq_iff_fieldsJSR, op]
  case add | and =>
    cases mode : fieldMode w
    · simp [decode, e, mode, encode, Instr.usedMask, and_FFE7_eq_iff, op]
    · simp [decode, e, mode, encode, Instr.usedMask, and_FFFF, eq_iff_fieldsOPI, op]

/-- R96: a word that agrees on the used bits of a decoded word decodes alike: it has the same opcode, hence goes the
same way through the decoder, and the fields taken there are the same. -/
theorem decode_eq_of_agrees {v w : Word} (h : v &&& (decode w).usedMask = w &&& (decode w).usedMask) :
    decode v = decode w := by
  have op : fieldOpcode v = fieldOpcode w := fieldOpcode_eq_iff.2 (and_eq_of_subset h (usedMask_opcode _))
  cases e : opcodeOfNibble (fieldOpcode w)
  case br | ld | st | ldi | sti | lea | ldr | str =>
    have same : v = w := by simpa [decode, e, Instr.usedMask, and_FFFF] using h
    rw [same]
  case rti | res => simp [decode, e, op]
  case not => simp_all [decode, Instr.usedMask, and_FFC0_eq_iff]
  case jmp => simp_all [decode, Instr.usedMask, and_F1C0_eq_iff]
  case trap => simp_all [decode, decodeTrap_usedMask, and_F0FF_eq_iff]
  case jsr =>
    cases long : fieldLong w
    · simp_all [decode, Instr.usedMask, and_F9C0_eq_iff]
    · simp_all [decode, Instr.usedMask, and_FFFF]
  case add | and =>
    cases mode : fieldMode w
    · simp_all [decode, Instr.usedMask, and_FFE7_eq_iff]
    · simp_all [decode, Instr.usedMask, and_FFFF]

/-- R81: the family `EncodedOpcode`, over all instructions. -/
theorem fieldOpcode_encode : ∀ i : Instr, fieldOpcode (encode i) = fieldOpcode i.row.pattern
  | .br c o => Laws.EncodedOpcode.br c o
  | .addReg a b c => Laws.EncodedOpcode.addReg a b c
  | .addImm a b v => Laws.EncodedOpcode.addImm a b v
  | .ld a o => Laws.EncodedOpcode.ld a o
  | .st a o => Laws.EncodedOpcode.st a o
  | .jsr o => Laws.EncodedOpcode.jsr o
  | .jsrr a => Laws.EncodedOpcode.jsrr a
  | .andReg a b c => Laws.EncodedOpcode.andReg a b c
  | .andImm a b v => Laws.EncodedOpcode.andImm a b v
  | .ldr a b o => Laws.EncodedOpcode.ldr a b o
  | .str a b o => Laws.EncodedOpcode.str a b o
  | .rti => Laws.EncodedOpcode.rti
  | .notReg a b => Laws.EncodedOpcode.notReg a b
  | .ldi a o => Laws.EncodedOpcode.ldi a o
  | .sti a o => Laws.EncodedOpcode.sti a o
  | .jmp a => Laws.EncodedOpcode.jmp a
  | .res => Laws.EncodedOpcode.res
  | .lea a o => Laws.EncodedOpcode.lea a o
  | .trapGetc => Laws.EncodedOpcode.trapGetc
  | .trapOut => Laws.EncodedOpcode.trapOut
  | .trapPuts => Laws.EncodedOpcode.trapPuts
  | .trapIn => Laws.EncodedOpcode.trapIn
  | .trapPutsp => Laws.EncodedOpcode.trapPutsp
  | .trapHalt => Laws.EncodedOpcode.trapHalt
  | .trapUndefined v => Laws.EncodedOpcode.trapUndefined v

/-! ### The match/mask table (R92) -/

theorem usedMask_and_rowMask (i : Instr) : i.usedMask &&& i.row.mask = i.row.mask := by
  cases i <;> simp only [Instr.usedMask, Instr.row] <;> decide

theorem rowPattern_and_rowMask (i : Instr) : i.row.pattern &&& i.row.mask = i.row.pattern := by
  cases i <;> simp only [Instr.row] <;> decide

/-- A row accepts a word exactly if the word agrees with the row's pattern under its mask. -/
theorem row_accepts_iff (i : Instr) (w : Word) :
    i.row.accepts w = true ↔ w &&& i.row.mask = i.row.pattern &&& i.row.mask := by
  rw [rowPattern_and_rowMask, Row.accepts, beq_iff_eq]

/-- Every row accepts the word of its instruction. -/
theorem row_accepts_encode (i : Instr) : i.row.accepts (encode i) = true := by
  rw [row_accepts_iff]
  have op := fieldOpcode_encode i
  cases i with
  | addReg _ _ _ | andReg _ _ _ | addImm _ _ _ | andImm _ _ _ =>
    exact and_F020_eq_iff.2 ⟨op, by simp [encode, Instr.row]; decide⟩
  | jsr _ | jsrr _ => exact and_F800_eq_iff.2 ⟨op, by simp [encode, Instr.row]; decide⟩
  | trapGetc | trapOut | trapPuts | trapIn | trapPutsp | trapHalt => decide
  | _ => exact fieldOpcode_eq_iff.1 op

/-- The row of the decoded instruction accepts the word: the word has the used bits of an encoding that it accepts. -/
theorem row_decode_accepts (w : Word) : (decode w).row.accepts w = true := by
  have agrees := and_eq_of_subset (encode_decode_agrees w) (usedMask_and_rowMask _)
  rw [row_accepts_iff, ← agrees, ← row_accepts_iff]
  exact row_accepts_encode _

theorem decode_wf (w : Word) : (decode w).wf = true := by
  cases e : opcodeOfNibble (fieldOpcode w)
  case trap => simpa [decode, e] using decodeTrap_wf _
  case add | and => cases mode : fieldMode w <;> simp [decode, e, mode, Instr.wf]
  case jsr => cases long : fieldLong w <;> simp [decode, e, long, Instr.wf]
  all_goals simp [decode, e, Instr.wf]

/-- Two rows that accept one word have patterns that agree where both masks look. -/
theorem patterns_agree_of_accepts {r s : Row} {w : Word} (hr : r.accepts w = true) (hs : s.accepts w = true) :
    r.pattern &&& s.mask = s.pattern &&& r.mask := by
  rw [Row.accepts, beq_iff_eq] at hr hs
  rw [← hr, ← hs, BitVec.and_assoc, BitVec.and_assoc, BitVec.and_comm s.mask]

/-- Over the table's pairs of rows: only a trap row and the last row have patterns that agree so. -/
theorem patterns_agree_only_with_last : ∀ i j : Fin 25, i < j →
    decodeTable[i].pattern &&& decodeTable[j].mask = decodeTable[j].pattern &&& decodeTable[i].mask →
    18 ≤ i.val ∧ j.val = 24 := by
  decide

theorem rows_overlap_only_with_last {w : Word} {i j : Nat} (hi : i < decodeTable.length) (hj : j < decodeTable.length)
    (hij : i < j) (hwi : decodeTable[i].accepts w = true) (hwj : decodeTable[j].accepts w = true) :
    18 ≤ i ∧ j = 24 :=
  patterns_agree_only_with_last ⟨i, hi⟩ ⟨j, hj⟩ hij (patterns_agree_of_accepts hwi hwj)

theorem decodeTable_nodup : decodeTable.Nodup := by decide

theorem row_mem_decodeTable (i : Instr) : i.row ∈ decodeTable := by
  cases i <;> simp [decodeTable, Instr.row]

/-- Where a row's mask has every used bit of its instruction, a word the row accepts decodes to that instruction. -/
theorem decode_of_row_accepts {i : Instr} {w : Word} (wf : i.wf = true) (full : i.usedMask = i.row.mask)
    (hw : i.row.accepts w = true) : decode w = i := by
  have agrees : w &&& i.usedMask = encode i &&& i.usedMask := by
    rw [full, (row_accepts_iff i w).1 hw, (row_accepts_iff i _).1 (row_accepts_encode i)]
  have dec := decode_encode wf
  rw [← dec]
  exact decode_eq_of_agrees (by rwa [dec])

/-- Rows 18 to 23 are those of the six defined vectors, whose masks have every used bit. -/
theorem trapRows {k : Nat} (h18 : 18 ≤ k) (h24 : k < 24) (hk : k < decodeTable.length) :
    ∃ i : Instr, i.wf = true ∧ i.usedMask = i.row.mask ∧ decodeTable[k] = i.row := by
  interval_cases k
  · exact ⟨.trapGetc, rfl, rfl, rfl⟩
  · exact ⟨.trapOut, rfl, rfl, rfl⟩
  · exact ⟨.trapPuts, rfl, rfl, rfl⟩
  · exact ⟨.trapIn, rfl, rfl, rfl⟩
  · exact ⟨.trapPutsp, rfl, rfl, rfl⟩
  · exact ⟨.trapHalt, rfl, rfl, rfl⟩

/-- The first accepting row is the decoded instruction's: an earlier one could only be a trap row before the last, and
that row's instruction would then be the decoded one. -/
theorem find_decodeTable (w : Word) : decodeTable.find? (fun r => r.accepts w) = some (decode w).row := by
  obtain ⟨j, hj, row⟩ := List.mem_iff_getElem.1 (row_mem_decodeTable (decode w))
  have accepted := row_decode_accepts w
  refine List.find?_eq_some_iff_getElem.2 ⟨accepted, j, hj, row, fun k hkj => ?_⟩
  by_contra earlier
  have hwk : decodeTable[k].accepts w = true := by simpa using earlier
  obtain ⟨h18, rfl⟩ := rows_overlap_only_with_last (by omega) hj hkj hwk (row ▸ accepted)
  obtain ⟨i, wf, full, rowk⟩ := trapRows h18 hkj (by omega)
  have dec : decode w = i := decode_of_row_accepts wf full (rowk ▸ hwk)
  have same : decodeTable[k] = decodeTable[24] := by rw [rowk, row, dec]
  exact hkj.ne ((decodeTable_nodup.getElem_inj_iff).1 same)

end Sys2Proof

namespace Sys2Proof.Proofs
open Sys2Proof.Machine

/-- Settles O56: `decode_encode`, by the formats' field lemmas. -/
theorem decodeEncodeRoundTrip : Obligations.DecodeEncodeRoundTrip := fun _ => decode_encode

/-- Settles O57: the decoder is total on well-formed instructions, and `find_decodeTable` names the row. -/
theorem decodeSelectsTheFirstMatchingRow : Obligations.DecodeSelectsTheFirstMatchingRow :=
  fun w => ⟨decode_wf w, find_decodeTable w⟩

/-- Settles O58: two rows that accept one word have patterns that agree under both masks, which only a trap row and the
last row have. -/
theorem tableRowsAreDisjoint : Obligations.TableRowsAreDisjoint :=
  fun _ _ _ => rows_overlap_only_with_last

/-- Settles O59: the two directions between the used bits and the decoded instruction. -/
theorem exactlyTheUnusedBitsAreIgnored : Obligations.ExactlyTheUnusedBitsAreIgnored :=
  ⟨fun _ _ => decode_eq_of_agrees, encode_decode_agrees⟩

/-- Settles O60: ten closed words. -/
theorem sampleWordsDecode : Obligations.SampleWordsDecode := by
  unfold Obligations.SampleWordsDecode
  decide

end Sys2Proof.Proofs
end

section
/-!
PROOFS, what an instruction can do: one relation, `Effect`, with a constructor per way an instruction's meaning can act,
and `exec_effect`, which says that every instruction acts in one of these ways. The statements over all instructions
are case splits over `Effect`.
-/
namespace Sys2Proof.Machine

/-! ### Reads one after another, and output -/

namespace State
variable (s : State)

/-- The state after reads of these addresses through `MemRead`, in order (R52). -/
def afterReads (as : List Word) : State := as.foldl afterRead s

@[simp] theorem afterReads_nil : s.afterReads [] = s := rfl
@[simp] theorem afterReads_cons (a : Word) (as : List Word) :
    s.afterReads (a :: as) = (s.afterRead a).afterReads as := rfl

/-- What a read keeps, reads keep. -/
theorem afterReads_keeps {α : Type} {f : State → α} (keeps : ∀ (u : State) (a : Word), f (u.afterRead a) = f u)
    (as : List Word) : f (s.afterReads as) = f s := by
  induction as generalizing s with
  | nil => rfl
  | cons a as ih => rw [afterReads_cons, ih, keeps]

variable (as : List Word)

@[simp] theorem afterReads_pc : (s.afterReads as).pc = s.pc := s.afterReads_keeps afterRead_pc as
@[simp] theorem afterReads_cc : (s.afterReads as).cc = s.cc := s.afterReads_keeps afterRead_cc as
@[simp] theorem afterReads_run : (s.afterReads as).run = s.run := s.afterReads_keeps afterRead_run as
@[simp] theorem afterReads_output : (s.afterReads as).output = s.output := s.afterReads_keeps afterRead_output as
@[simp] theorem afterReads_wait : (s.afterReads as).wait = s.wait := s.afterReads_keeps afterRead_wait as
@[simp] theorem afterReads_params : (s.afterReads as).params = s.params := s.afterReads_keeps afterRead_params as
@[simp] theorem afterReads_x (r : RegIdx) : (s.afterReads as).x r = s.x r :=
  s.afterReads_keeps (f := (·.x r)) (fun u a => u.afterRead_x a r) as

theorem afterReads_wf (h : s.mem.wf = true) : (s.afterReads as).mem.wf = true := by
  induction as generalizing s with
  | nil => exact h
  | cons a as ih => exact ih _ (s.afterRead_wf h a)

/-- R53: reads of other addresses than `KBSR_ADDR` change nothing. -/
theorem afterReads_of_notMem {as : List Word} (h : s.params.kbsrAddr ∉ as) : s.afterReads as = s := by
  induction as with
  | nil => rfl
  | cons a as ih =>
    rw [List.mem_cons, not_or] at h
    rw [afterReads_cons, s.afterRead_of_ne (Ne.symm h.1), ih h.2]

/-- R60: reads rewrite no word but KBSR and KBDR. -/
theorem afterReads_mem_ne {b : Word} (h1 : b ≠ s.params.kbsrAddr) (h2 : b ≠ s.params.kbdrAddr) :
    (s.afterReads as).mem.read b = s.mem.read b := by
  induction as generalizing s with
  | nil => rfl
  | cons a as ih =>
    rw [afterReads_cons, ih _ (by simpa using h1) (by simpa using h2), s.afterRead_mem_ne fun _ => ⟨h1, h2⟩]

/-- R53: a read consumes a front part of the input. -/
theorem afterRead_input_suffix (a : Word) : (s.afterRead a).input <:+ s.input := by
  unfold afterRead
  split
  · rcases s.pollKeyboard_cases with ⟨-, c, rest, input, h⟩ | ⟨-, h⟩
    · rw [h, input]
      exact List.suffix_cons c rest
    · rw [h]
  · exact List.suffix_rfl

theorem afterReads_input_suffix : (s.afterReads as).input <:+ s.input := by
  induction as generalizing s with
  | nil => exact List.suffix_rfl
  | cons a as ih => exact (ih _).trans (s.afterRead_input_suffix a)

/-- R242, R243: these events written at the end of the output. -/
def append (events : List OutEvent) : State := { s with output := s.output ++ events }

variable (events : List OutEvent)

@[simp] theorem append_x (r : RegIdx) : (s.append events).x r = s.x r := rfl
@[simp] theorem append_pc : (s.append events).pc = s.pc := rfl
@[simp] theorem append_cc : (s.append events).cc = s.cc := rfl
@[simp] theorem append_mem : (s.append events).mem = s.mem := rfl
@[simp] theorem append_run : (s.append events).run = s.run := rfl
@[simp] theorem append_input : (s.append events).input = s.input := rfl
@[simp] theorem append_output : (s.append events).output = s.output ++ events := rfl
@[simp] theorem append_wait : (s.append events).wait = s.wait := rfl
@[simp] theorem append_keyAnswers : (s.append events).keyAnswers = s.keyAnswers := rfl
@[simp] theorem append_polls : (s.append events).polls = s.polls := rfl
@[simp] theorem append_params : (s.append events).params = s.params := rfl

@[simp] theorem append_nil : s.append [] = s := by simp [append]

theorem append_append (more : List OutEvent) : (s.append events).append more = s.append (events ++ more) := by
  simp [append]

theorem append_setInput (rest : List Byte) :
    (s.append events).setInput rest = (s.setInput rest).append events := rfl

theorem emit_eq_append (bytes : List Byte) : s.emit bytes = s.append (bytes.map .char) := rfl

theorem flush_eq_append : s.flush = s.append [.flush] := rfl

end State

/-! ### Strings: one ends, or none does -/

/-- R193, R234: from any address there is a string up to a zero word, or there is no zero word up to 0xFFFF. -/
theorem stringAt_or_noStringAt (m : Memory) (a : Word) : (∃ k, StringAt m a k) ∨ NoStringAt m a := by
  by_cases unended : NoStringAt m a
  · exact .inr unended
  · have zero : ∃ k, k < 65536 - a.toNat ∧ m.read (a + BitVec.ofNat 16 k) = 0 := by
      simpa [NoStringAt, stringWords] using unended
    classical
    obtain ⟨bound, hz⟩ := Nat.find_spec zero
    refine .inl ⟨Nat.find zero, by omega, ?_, hz⟩
    intro w hw
    obtain ⟨j, hj, rfl⟩ := List.mem_map.1 hw
    rw [List.mem_range] at hj
    exact fun h => Nat.find_min zero hj ⟨by omega, h⟩

/-! ### The effects -/

/-- How the routine of trap instruction `i` can act in state `u`, the one that the link into R7 left. -/
inductive RoutineEffect (i : Instr) (u : State) : State → Prop where
  /-- OUT, PUTS, PUTSP (R192, R193, R195). -/
  | text (events : List OutEvent) (hi : i = .trapOut ∨ i = .trapPuts ∨ i = .trapPutsp) :
      RoutineEffect i u (u.append events)
  /-- PUTS, PUTSP without a terminator (R234). -/
  | overrun (events : List OutEvent) (hi : i = .trapPuts ∨ i = .trapPutsp) (unended : NoStringAt u.mem (u.x R0)) :
      RoutineEffect i u ((u.append events).raise .stringOverrun)
  /-- GETC, IN with a byte waiting (R191, R194). -/
  | read {c : Byte} {rest : List Byte} (events : List OutEvent) (hi : i = .trapGetc ∨ i = .trapIn)
      (input : u.input = c :: rest) : RoutineEffect i u (((u.setInput rest).append events).setXcc R0 (zext16 c))
  /-- GETC, IN on an empty stream (R241). -/
  | blocked (events : List OutEvent) (r : BlockedRead) (hi : i = .trapGetc ∨ i = .trapIn) (input : u.input = []) :
      RoutineEffect i u ((u.append events).block r)
  /-- HALT (R196). -/
  | halted (events : List OutEvent) (hi : i = .trapHalt) : RoutineEffect i u (u.append events).halt
  /-- TRAP with an undefined vector (R198). -/
  | illegalTrap (v : BitVec 8) (hi : i = .trapUndefined v) : RoutineEffect i u (u.raise .illegalTrap)

/-- How instruction `i` can act in state `s`. -/
inductive Effect (i : Instr) (s : State) : State → Prop where
  /-- The reads, if any, then a result register with its flags (R29). -/
  | result {dr : RegIdx} (v : Word) (hi : resultReg i = some dr) : Effect i s ((s.afterReads (readsOf s i)).setXcc dr v)
  /-- BR, JMP: pc alone (R141). -/
  | jump (target : Word) (hi : isControlTransfer i = true) : Effect i s (s.setPc target)
  /-- JSR, JSRR: the link, then pc (R145, R146). -/
  | call (target : Word) (hi : isControlTransfer i = true) (links : linksR7 i = true) :
      Effect i s ((s.setX R7 s.pc).setPc target)
  /-- The reads, if any, then one store (R164 to R166). -/
  | store {a : Word} (v : Word) (hi : storesOf s i = [a]) : Effect i s ((s.afterReads (readsOf s i)).memWrite a v)
  /-- RES, RTI (R220, R221). -/
  | illegalOpcode (hi : i = .res ∨ i = .rti) : Effect i s (s.raise .illegalOpcode)
  /-- TRAP: the link, then the routine (R190). -/
  | trap {t : State} (hi : isTrap i = true) (routine : RoutineEffect i s.trapEntry t) : Effect i s t

theorem out_effect (u : State) : RoutineEffect .trapOut u u.out := by
  rw [u.out_eq, State.emit_eq_append, State.flush_eq_append, State.append_append]
  exact .text _ (.inl rfl)

theorem haltRoutine_effect (u : State) : RoutineEffect .trapHalt u u.haltRoutine := by
  rw [u.haltRoutine_eq, State.emit_eq_append, State.flush_eq_append, State.append_append]
  exact .halted _ rfl

/-- R193, R195: PUTS and PUTSP, as there is a string from R0 or none. -/
theorem putString_effect {i : Instr} (u : State) (chars : Word → List Byte) (hi : i = .trapPuts ∨ i = .trapPutsp) :
    RoutineEffect i u (u.putString chars) := by
  rcases stringAt_or_noStringAt u.mem (u.x R0) with ⟨k, string⟩ | unended
  · rw [u.putString_of_string chars string, State.emit_eq_append, State.flush_eq_append, State.append_append]
    exact .text _ (.inr hi)
  · rw [u.putString_of_no_string chars unended, State.emit_eq_append]
    exact .overrun _ hi unended

theorem getc_effect (u : State) : RoutineEffect .trapGetc u u.getc := by
  rcases u.getc_cases with ⟨c, rest, input, h⟩ | ⟨input, h⟩
  · simpa [h] using RoutineEffect.read [] (.inl rfl) input
  · simpa [h] using RoutineEffect.blocked [] .getc (.inl rfl) input

/-- R194: IN from its read on, after these events. -/
theorem inRead_effect (u : State) (events : List OutEvent) : RoutineEffect .trapIn u (u.append events).inRead := by
  rcases (u.append events).inRead_cases with ⟨c, rest, input, h⟩ | ⟨input, h⟩
  · rw [h, State.append_setInput, State.emit_eq_append, State.flush_eq_append, State.append_append,
      State.append_append]
    exact .read _ (.inr rfl) input
  · rw [h]
    exact .blocked _ _ (.inr rfl) input

/-- R142: BR sets pc, to the target or to what it was. -/
theorem exec_br (cond : BitVec 3) (offset9 : BitVec 9) (s : State) :
    exec (.br cond offset9) s =
      .next (s.setPc (if branchTaken cond s.cc then s.pc + offset9.signExtend 16 else s.pc)) := by
  rw [← pcRelative_eq_signExtend (by decide) (by decide)]
  cases taken : branchTaken cond s.cc <;> simp only [exec, execBr, taken] <;> rfl

/-- R190: a trap links and runs its routine. -/
theorem exec_trap_effect {i : Instr} (h : isTrap i = true) (s : State) :
    ∃ t, exec i s = .next t ∧ RoutineEffect i s.trapEntry t := by
  cases i with
  | trapGetc => exact ⟨_, rfl, getc_effect _⟩
  | trapOut => exact ⟨_, rfl, out_effect _⟩
  | trapPuts => exact ⟨_, rfl, putString_effect _ putsChars (.inl rfl)⟩
  | trapIn => exact ⟨_, rfl, inRead_effect _ _⟩
  | trapPutsp => exact ⟨_, rfl, putString_effect _ putspChars (.inr rfl)⟩
  | trapHalt => exact ⟨_, rfl, haltRoutine_effect _⟩
  | trapUndefined v => exact ⟨_, rfl, .illegalTrap v rfl⟩
  | _ => simp [isTrap] at h

/-- Every instruction answers a next state, by one of the effects. -/
theorem exec_effect (i : Instr) (s : State) : ∃ t, exec i s = .next t ∧ Effect i s t := by
  cases i with
  | addReg | addImm | andReg | andImm | notReg | lea | ld | ldr | ldi => exact ⟨_, rfl, .result _ rfl⟩
  | st | str | sti => exact ⟨_, rfl, .store _ rfl⟩
  | br => exact ⟨_, exec_br .., .jump _ rfl⟩
  | jmp => exact ⟨_, rfl, .jump _ rfl⟩
  | jsr | jsrr => exact ⟨_, rfl, .call _ rfl rfl⟩
  | res => exact ⟨_, rfl, .illegalOpcode (.inl rfl)⟩
  | rti => exact ⟨_, rfl, .illegalOpcode (.inr rfl)⟩
  | trapGetc | trapOut | trapPuts | trapIn | trapPutsp | trapHalt | trapUndefined =>
    exact (exec_trap_effect rfl s).imp fun t ⟨next, routine⟩ => ⟨next, .trap rfl routine⟩

theorem effect_of_exec {i : Instr} {s t : State} (h : exec i s = .next t) : Effect i s t := by
  obtain ⟨u, next, effect⟩ := exec_effect i s
  cases h.symm.trans next
  exact effect

/-- R241: a resumed read goes on as the routine of GETC or IN does, in the state no longer blocked. -/
theorem resumeRead_effect {r : BlockedRead} {s t : State} (h : resumeRead r s = .next t) :
    ∃ i, (i = .trapGetc ∨ i = .trapIn) ∧ RoutineEffect i s.unblock t := by
  cases r with
  | getc =>
    cases h
    exact ⟨_, .inl rfl, getc_effect _⟩
  | trapIn =>
    cases h
    exact ⟨_, .inr rfl, by simpa using inRead_effect s.unblock []⟩

/-- What a step can do: the effect of the decoded instruction on the fetch's state, or a resumed read. -/
theorem step_effect {s t : State} (h : step s = .next t) :
    s.run = .running ∧
      ((s.wait = none ∧ Effect (decode s.fetch.1) s.fetch.2 t) ∨
        (s.wait ≠ none ∧ ∃ i, (i = .trapGetc ∨ i = .trapIn) ∧ RoutineEffect i s.unblock t)) := by
  obtain ⟨running, ⟨unblocked, run⟩ | ⟨r, blocked, resumed⟩⟩ := step_cases h
  · exact ⟨running, .inl ⟨unblocked, effect_of_exec run⟩⟩
  · exact ⟨running, .inr ⟨by simp [blocked], resumeRead_effect resumed⟩⟩

/-! ### What every routine keeps -/

namespace RoutineEffect
variable {i : Instr} {u t : State}

theorem pc_eq (h : RoutineEffect i u t) : t.pc = u.pc := by cases h <;> rfl
theorem mem_eq (h : RoutineEffect i u t) : t.mem = u.mem := by cases h <;> rfl
theorem params_eq (h : RoutineEffect i u t) : t.params = u.params := by cases h <;> rfl
theorem keyAnswers_eq (h : RoutineEffect i u t) : t.keyAnswers = u.keyAnswers := by cases h <;> rfl
theorem polls_eq (h : RoutineEffect i u t) : t.polls = u.polls := by cases h <;> rfl

/-- R197: a routine writes no register but R0. -/
theorem x_ne (h : RoutineEffect i u t) {r : RegIdx} (hr : r ≠ R0) : t.x r = u.x r := by
  cases h with
  | read => exact State.setXcc_x_ne _ R0 r _ hr
  | _ => rfl

/-- R197: only GETC and IN write R0, and consume input. -/
theorem of_not_reading (h : RoutineEffect i u t) (notReading : ¬ (i = .trapGetc ∨ i = .trapIn)) :
    t.x R0 = u.x R0 ∧ t.cc = u.cc ∧ t.input = u.input := by
  cases h with
  | read _ hi => exact absurd hi notReading
  | _ => exact ⟨rfl, rfl, rfl⟩

/-- R191, R194, R241: GETC and IN take a byte into R0, or block. -/
theorem of_reading (h : RoutineEffect i u t) (reading : i = .trapGetc ∨ i = .trapIn) :
    (∃ c rest events, u.input = c :: rest ∧ t = ((u.setInput rest).append events).setXcc R0 (zext16 c)) ∨
      (u.input = [] ∧ ∃ events r, t = (u.append events).block r) := by
  cases h with
  | read events _ input => exact .inl ⟨_, _, events, input, rfl⟩
  | blocked events r _ input => exact .inr ⟨input, events, r, rfl⟩
  | text _ hi | overrun _ hi | halted _ hi | illegalTrap _ hi => rcases reading with rfl | rfl <;> simp at hi

/-- R241: GETC and IN leave `run`. -/
theorem run_of_reading (h : RoutineEffect i u t) (reading : i = .trapGetc ∨ i = .trapIn) : t.run = u.run := by
  rcases h.of_reading reading with ⟨c, rest, events, -, rfl⟩ | ⟨-, events, r, rfl⟩ <;> rfl

theorem output_prefix (h : RoutineEffect i u t) : u.output <+: t.output := by
  cases h with
  | illegalTrap => exact List.prefix_rfl
  | _ => exact List.prefix_append _ _

theorem input_suffix (h : RoutineEffect i u t) : t.input <:+ u.input := by
  cases h with
  | read _ _ input => exact input ▸ List.suffix_cons _ _
  | _ => exact List.suffix_rfl

end RoutineEffect

/-! ### What every instruction keeps -/

namespace Effect
variable {i : Instr} {s t : State}

theorem params_eq (h : Effect i s t) : t.params = s.params := by
  cases h with
  | trap _ routine => exact routine.params_eq
  | _ => simp

theorem output_prefix (h : Effect i s t) : s.output <+: t.output := by
  cases h with
  | trap _ routine => exact routine.output_prefix
  | _ => simp

theorem input_suffix (h : Effect i s t) : t.input <:+ s.input := by
  cases h with
  | result | store => exact s.afterReads_input_suffix _
  | trap _ routine => exact routine.input_suffix
  | jump | call | illegalOpcode => exact List.suffix_rfl

end Effect

/-! ### The invariant: what keeps it -/

theorem ccLegal_code (f : Flag) : ccLegal f.code = true := by
  cases f <;> decide

theorem Flag.code_injective : Function.Injective Flag.code := by
  intro f g
  cases f <;> cases g <;> simp [Flag.code, FL_N, FL_Z, FL_P]

/-- R27: a legal condition code is the value of exactly one flag. -/
theorem exists_flag_of_ccLegal {cc : Word} (h : ccLegal cc = true) :
    ∃ f : Flag, cc = f.code ∧ ∀ g : Flag, cc = g.code → g = f := by
  simp only [ccLegal, Bool.or_eq_true, beq_iff_eq] at h
  rcases h with (rfl | rfl) | rfl
  · exact ⟨.negative, rfl, fun g hg => Flag.code_injective hg.symm⟩
  · exact ⟨.zero, rfl, fun g hg => Flag.code_injective hg.symm⟩
  · exact ⟨.positive, rfl, fun g hg => Flag.code_injective hg.symm⟩

section
variable {s : State}

theorem State.Inv.fetch (h : s.Inv) (unblocked : s.wait = none) : s.fetch.2.Inv where
  mem := s.fetch_wf h.mem
  cc := by simpa using h.cc
  params := by simpa using h.params
  blocked := by simp [unblocked]

theorem State.Inv.unblock (h : s.Inv) : s.unblock.Inv := ⟨h.mem, h.cc, h.params, by simp⟩

/-- R236, R244: the host's actions keep the invariant; cancelling gives up a blocked read. -/
theorem State.Inv.host (h : s.Inv) (a : HostAction) : (a.apply s).Inv := by
  cases a with
  | supplyInput bytes => exact ⟨h.mem, h.cc, h.params, h.blocked⟩
  | scriptAnswers answers => exact ⟨h.mem, h.cc, h.params, h.blocked⟩
  | cancel =>
    simp only [HostAction.apply, State.cancel]
    split
    · exact ⟨h.mem, h.cc, h.params, by simp⟩
    · exact h
    · exact h

end

/-- A routine keeps the invariant if R7 holds pc when it starts: only GETC and IN block, and they leave both. -/
theorem RoutineEffect.inv {i : Instr} {u t : State} (h : RoutineEffect i u t) (inv : u.Inv) (running : u.run = .running)
    (link : u.x R7 = u.pc) (unblocked : u.wait = none) : t.Inv where
  mem := by simpa [h.mem_eq] using inv.mem
  cc := by
    cases h with
    | read => simp [ccLegal_ccOf]
    | _ => exact inv.cc
  params := by simpa [h.params_eq] using inv.params
  blocked := by
    cases h with
    | blocked => exact fun _ => ⟨running, link⟩
    | _ => simp [unblocked]

/-- The effect of an instruction keeps the invariant of a running, unblocked state. -/
theorem Effect.inv {i : Instr} {s t : State} (h : Effect i s t) (inv : s.Inv) (running : s.run = .running)
    (unblocked : s.wait = none) : t.Inv := by
  cases h with
  | result v =>
    exact ⟨s.afterReads_wf _ inv.mem, by simp [ccLegal_ccOf], by simpa using inv.params, by simp [unblocked]⟩
  | store v =>
    exact ⟨Memory.wf_write (s.afterReads_wf _ inv.mem) _ v, by simpa using inv.cc, by simpa using inv.params,
      by simp [unblocked]⟩
  | jump | call | illegalOpcode => exact ⟨inv.mem, inv.cc, inv.params, by simp [unblocked]⟩
  | trap _ routine =>
    have entered : s.trapEntry.Inv := ⟨inv.mem, inv.cc, inv.params, by simp [unblocked]⟩
    exact routine.inv entered running s.trapEntry_x_R7 unblocked

/-! ### What the classes of instructions exclude -/

theorem resultReg_of_reading {i : Instr} (h : i = .trapGetc ∨ i = .trapIn) : resultReg i = none := by
  rcases h with rfl | rfl <;> rfl

theorem isTrap_of_reading {i : Instr} (h : i = .trapGetc ∨ i = .trapIn) : isTrap i = true := by
  rcases h with rfl | rfl <;> rfl

theorem resultReg_of_isControlTransfer {i : Instr} (h : isControlTransfer i = true) : resultReg i = none := by
  cases i <;> simp_all [isControlTransfer, resultReg]

theorem resultReg_of_isTrap {i : Instr} (h : isTrap i = true) : resultReg i = none := by
  cases i <;> simp_all [isTrap, resultReg]

theorem resultReg_of_storesOf {i : Instr} {s : State} {a : Word} (h : storesOf s i = [a]) : resultReg i = none := by
  cases i <;> simp_all [storesOf, resultReg]

theorem linksR7_of_isTrap {i : Instr} (h : isTrap i = true) : linksR7 i = true := by
  cases i <;> simp_all [isTrap, linksR7]

end Sys2Proof.Machine

namespace Sys2Proof.Proofs
open Sys2Proof.Machine Sys2Proof.Machine.State

/-- Settles O17: only a read of `KBSR_ADDR` polls, and only a store writes another word; the input is consumed by such a
read and by GETC and IN. -/
theorem memoryAndInputFrameOfEveryInstruction : Obligations.MemoryAndInputFrameOfEveryInstruction := by
  intro i s
  obtain ⟨t, next, effect⟩ := exec_effect i s
  refine ⟨t, next, ?_, ?_⟩
  · intro b hb
    simp only [List.mem_cons, not_or] at hb
    obtain ⟨h1, h2, h3⟩ := hb
    cases effect with
    | result v hi => exact s.afterReads_mem_ne _ h1 h2
    | store v hi =>
      rw [hi, List.mem_singleton] at h3
      rw [memWrite_mem, Memory.read_write_ne _ h3, s.afterReads_mem_ne _ h1 h2]
    | trap hi routine => rw [routine.mem_eq, trapEntry_mem]
    | _ => rfl
  · intro unpolled
    cases effect with
    | result v hi =>
      rw [s.afterReads_of_notMem unpolled]
      exact ⟨fun _ _ => rfl, rfl, rfl, fun _ _ => rfl⟩
    | store v hi =>
      rw [s.afterReads_of_notMem unpolled, hi]
      exact ⟨fun b hb => Memory.read_write_ne _ (by simpa using hb) v, rfl, rfl, fun _ _ => rfl⟩
    | trap hi routine =>
      refine ⟨fun b _ => by rw [routine.mem_eq, trapEntry_mem], routine.keyAnswers_eq, routine.polls_eq, ?_⟩
      intro notGetc notIn
      exact (routine.of_not_reading (by simp [notGetc, notIn])).2.2
    | _ => exact ⟨fun _ _ => rfl, rfl, rfl, fun _ _ => rfl⟩

/-- Settles O25: the link is the whole frame of a trap but for what its routine writes, which is R0 in GETC and IN. -/
theorem everyTrapLinksR7AndKeepsPc : Obligations.EveryTrapLinksR7AndKeepsPc := by
  intro i s trap
  obtain ⟨t, next, routine⟩ := exec_trap_effect trap s
  have link : t.x R7 = s.pc := (routine.x_ne R7_ne_R0).trans s.trapEntry_x_R7
  refine ⟨t, next, link, fun r hr => ?_, routine.pc_eq, fun a => by rw [routine.mem_eq, trapEntry_mem],
    routine.params_eq⟩
  rw [List.mem_cons, not_or] at hr
  obtain ⟨h7, others⟩ := hr
  rw [← s.trapEntry_x_ne r h7]
  by_cases h0 : r = R0
  · have notReading : ¬ (i = .trapGetc ∨ i = .trapIn) := fun reading => others (by simp [reading, h0])
    rw [h0, (routine.of_not_reading notReading).1]
  · exact routine.x_ne h0

/-- Settles O43: the effects that write a register are those with a result register, the calls, and the traps: the link
writes R7, and the routines of GETC and IN write R0. -/
theorem onlyTheNamedRegisterChanges : Obligations.OnlyTheNamedRegisterChanges := by
  intro i s
  obtain ⟨t, next, effect⟩ := exec_effect i s
  refine ⟨t, next, fun r changed => ?_⟩
  cases effect with
  | @result dr v hi =>
    have written : r = dr := by
      by_contra other
      simp [other] at changed
    exact .inl (written ▸ hi)
  | jump | store | illegalOpcode => simp at changed
  | call target hi links =>
    have written : r = R7 := by
      by_contra other
      simp [other] at changed
    exact .inr (.inl ⟨links, written⟩)
  | trap hi routine =>
    by_cases h7 : r = R7
    · exact .inr (.inl ⟨linksR7_of_isTrap hi, h7⟩)
    have linked : s.trapEntry.x r = s.x r := s.trapEntry_x_ne r h7
    by_cases h0 : r = R0
    · refine .inr (.inr ⟨?_, h0⟩)
      by_contra notReading
      subst h0
      exact changed ((routine.of_not_reading notReading).1.trans linked)
    · exact absurd ((routine.x_ne h0).trans linked) changed

/-- Settles O44: the flags are those of the result register in `result`, of R0 in `read`; the other effects leave them,
and their instructions define no result register. -/
theorem ccIsWrittenByResultsOnly : Obligations.CcIsWrittenByResultsOnly := by
  intro i s
  by_cases reading : i = .trapGetc ∨ i = .trapIn
  · obtain ⟨t, next, routine⟩ := exec_trap_effect (isTrap_of_reading reading) s
    have noResult := resultReg_of_reading reading
    refine ⟨t, next, fun dr hdr => by simp [noResult] at hdr, fun _ waiting => ?_, fun _ empty => ?_,
      fun _ notGetc notIn => absurd reading (not_or.2 ⟨notGetc, notIn⟩)⟩
    · rcases routine.of_reading reading with ⟨c, rest, events, -, rfl⟩ | ⟨empty, -⟩
      · exact setXcc_flagsTell _ _ _
      · exact absurd empty waiting
    · rcases routine.of_reading reading with ⟨c, rest, events, waiting, -⟩ | ⟨-, events, r, rfl⟩
      · simp [empty] at waiting
      · rfl
  · obtain ⟨t, next, effect⟩ := exec_effect i s
    refine ⟨t, next, fun dr hdr => ?_, fun h => absurd h reading, fun h => absurd h reading, fun noResult _ _ => ?_⟩
    · cases effect with
      | @result dr' v hi =>
        obtain rfl : dr' = dr := by simpa [hi] using hdr
        exact setXcc_flagsTell _ _ _
      | jump _ hi | call _ hi => simp [resultReg_of_isControlTransfer hi] at hdr
      | store _ hi => simp [resultReg_of_storesOf hi] at hdr
      | illegalOpcode hi => rcases hi with rfl | rfl <;> simp [resultReg] at hdr
      | trap hi => simp [resultReg_of_isTrap hi] at hdr
    · cases effect with
      | result v hi => simp [noResult] at hi
      | trap _ routine => exact (routine.of_not_reading reading).2.1
      | _ => simp

/-- Settles O42: of the effects of an instruction that is no control transfer none sets pc, and the fetch has added
one. -/
theorem pcAdvancesByOneModulo65536 : Obligations.PcAdvancesByOneModulo65536 := by
  intro s t unblocked next stays
  obtain ⟨-, ⟨-, effect⟩ | ⟨blocked, -⟩⟩ := step_effect next
  · have pc : t.pc = s.pc + 1 := by
      cases effect with
      | jump target hi | call target hi => simp [hi] at stays
      | trap hi routine => rw [routine.pc_eq, trapEntry_pc, fetch_pc]
      | _ => simp
    rw [pc, BitVec.toNat_add]; rfl
  · exact absurd unblocked blocked

/-- Settles O37: the fetched instruction runs in a running state, and of the effects only HALT's leaves a halted one;
a resumed read leaves `run`. -/
theorem onlyHaltHalts : Obligations.OnlyHaltHalts := by
  intro s t next halted
  obtain ⟨running, ⟨unblocked, effect⟩ | ⟨-, i, reading, routine⟩⟩ := step_effect next
  · refine ⟨unblocked, ?_⟩
    cases effect with
    | trap _ routine =>
      cases routine with
      | halted _ hi => exact hi
      | _ => simp [running] at halted
    | _ => simp [running] at halted
  · simp [routine.run_of_reading reading, running] at halted

/-- Settles O38: of the effects that leave an aborted state each raises its own cause; a resumed read leaves `run`. -/
theorem abortCauseNamesItsInstruction : Obligations.AbortCauseNamesItsInstruction := by
  intro s t c next aborted
  obtain ⟨running, ⟨unblocked, effect⟩ | ⟨-, i, reading, routine⟩⟩ := step_effect next
  · refine ⟨unblocked, ?_⟩
    cases effect with
    | illegalOpcode hi =>
      cases aborted
      exact hi
    | trap _ routine =>
      cases routine with
      | overrun _ hi unended =>
        cases aborted
        exact ⟨hi, unended⟩
      | illegalTrap v hi =>
        cases aborted
        exact ⟨v, hi⟩
      | _ => simp [running] at aborted
    | _ => simp [running] at aborted
  · simp [routine.run_of_reading reading, running] at aborted

/-- Settles O46: the fetch writes nothing and consumes a front part of the input, and so does every effect but for the
output, which it extends; a resumed read likewise. -/
theorem streamsOnlyMoveForward : Obligations.StreamsOnlyMoveForward := by
  intro s t next
  obtain ⟨-, ⟨-, effect⟩ | ⟨-, i, -, routine⟩⟩ := step_effect next
  · obtain ⟨written, output⟩ := effect.output_prefix
    obtain ⟨used, input⟩ := effect.input_suffix.trans (s.afterRead_input_suffix s.pc)
    exact ⟨⟨written, by simpa using output.symm⟩, ⟨used, input.symm⟩, by simpa using effect.params_eq⟩
  · obtain ⟨written, output⟩ := routine.output_prefix
    obtain ⟨used, input⟩ := routine.input_suffix
    exact ⟨⟨written, output.symm⟩, ⟨used, input.symm⟩, routine.params_eq⟩

/-! ### The invariant -/

/-- Settles O51: each part at the launch; reset is a launch with no word listed and two different addresses. -/
theorem invHoldsAtLaunch : Obligations.InvHoldsAtLaunch := by
  have launch : ∀ l : Launch, l.mem.wf = true → l.params.legal = true → (State.launch l).Inv :=
    fun l mem params => ⟨mem, ccLegal_code l.cc, params, fun blocked => absurd rfl blocked⟩
  exact ⟨launch .default rfl (by decide), launch⟩

/-- Settles O52: `step_effect`, and each effect keeps the invariant. -/
theorem stepKeepsInv : Obligations.StepKeepsInv := by
  intro s t inv next
  obtain ⟨running, ⟨unblocked, effect⟩ | ⟨blocked, i, reading, routine⟩⟩ := step_effect next
  · exact effect.inv (inv.fetch unblocked) (by simp [running]) (by simp [unblocked])
  · obtain ⟨-, link⟩ := inv.blocked blocked
    exact routine.inv inv.unblock running link rfl

/-- Settles O53: the launch, every step and every action of the host keep the invariant, which makes `cc` legal. -/
theorem everyReachableStateHasOneFlag : Obligations.EveryReachableStateHasOneFlag := by
  intro l t mem params reached
  have inv : t.Inv := by
    induction reached with
    | refl => exact invHoldsAtLaunch.2 l mem params
    | step _ next inv => exact stepKeepsInv _ _ inv next
    | host a _ inv => exact inv.host a
  exact ⟨inv, exists_flag_of_ccLegal inv.cc⟩

end Sys2Proof.Proofs
end

section
/-!
PROOFS, 10_state.md: the register file of ten registers (R20, R21), the state at reset (R37 to R41), and what reads the
condition code.
-/
namespace Sys2Proof.Machine

/-! ### The ten registers (R21) -/

namespace State
variable (s : State) (v : Word)

/-- The index of a general register in the file of ten. -/
def gprIndex (r : RegIdx) : Fin 10 := ⟨r.val, by omega⟩

/-- R21: indices 0..7 are the general registers, 8 is the PC, 9 the condition code. -/
theorem rfIndex_cases (i : Fin 10) : (∃ r : RegIdx, i = gprIndex r) ∨ i = 8 ∨ i = 9 := by
  by_cases low : i.val < 8
  · exact .inl ⟨⟨i.val, low⟩, rfl⟩
  · right; omega

theorem gprIndex_inj {r q : RegIdx} : gprIndex r = gprIndex q ↔ r = q := by
  simp [gprIndex, Fin.ext_iff]

theorem gprIndex_ne_8 (r : RegIdx) : gprIndex r ≠ 8 := by
  rw [Ne, Fin.ext_iff]; exact r.isLt.ne

theorem gprIndex_ne_9 (r : RegIdx) : gprIndex r ≠ 9 := by
  rw [Ne, Fin.ext_iff]; exact (r.isLt.trans (by decide)).ne

@[simp] theorem rfGet_gpr (r : RegIdx) : s.rfGet (gprIndex r) = s.x r := dif_pos r.isLt
@[simp] theorem rfGet_8 : s.rfGet 8 = s.pc := rfl
@[simp] theorem rfGet_9 : s.rfGet 9 = s.cc := rfl
@[simp] theorem rfSet_gpr (r : RegIdx) : s.rfSet (gprIndex r) v = s.setX r v := dif_pos r.isLt
@[simp] theorem rfSet_8 : s.rfSet 8 v = s.setPc v := rfl
@[simp] theorem rfSet_9 : s.rfSet 9 v = s.writeCc v := rfl

/-- R20, R21: a register of the file reads what was last written to it, and a write leaves the others. -/
theorem rfGet_rfSet (i j : Fin 10) : (s.rfSet i v).rfGet j = if j = i then v else s.rfGet j := by
  rcases rfIndex_cases i with ⟨r, rfl⟩ | rfl | rfl <;> rcases rfIndex_cases j with ⟨q, rfl⟩ | rfl | rfl <;>
    simp [setX_x, gprIndex_inj, gprIndex_ne_8, gprIndex_ne_9, (gprIndex_ne_8 _).symm, (gprIndex_ne_9 _).symm]

/-- R21: a write to the file changes registers only. -/
theorem rfSet_frame (i : Fin 10) :
    s.rfSet i v = { s with regs := (s.rfSet i v).regs, pc := (s.rfSet i v).pc, cc := (s.rfSet i v).cc } := by
  rcases rfIndex_cases i with ⟨r, rfl⟩ | rfl | rfl
  · rw [rfSet_gpr]; rfl
  · rfl
  · rfl

end State

/-- R33, D19: a run that was cancelled, or had ended before, is not running. -/
theorem State.cancel_run_ne (s : State) : s.cancel.run ≠ .running := by
  unfold State.cancel
  split <;> simp_all

end Sys2Proof.Machine

namespace Sys2Proof.Proofs
open Sys2Proof.Machine Sys2Proof.Machine.State

/-- Settles O47: the read-back is `rfGet_rfSet`, the frame `rfSet_frame`. -/
theorem registerFileReadsLastWrite : Obligations.RegisterFileReadsLastWrite :=
  fun s i j v => ⟨s.rfGet_rfSet v i j, s.rfGet_gpr, s.rfGet_8, s.rfGet_9, s.rfSet_frame v i⟩

/-- Settles O50: the fields of the default launch; a memory that lists no word reads as `unlistedWord` everywhere. -/
theorem resetTakesTheDefaults : Obligations.ResetTakesTheDefaults := by
  have registers : ∀ r, State.reset.x r = 0 := fun r => Vector.getElem_replicate r.isLt
  exact ⟨registers, rfl, fun _ => rfl, rfl, rfl, rfl⟩

/-- Settles O35: both meanings are `raise`, an update of `run` alone. -/
theorem resAndRtiAbort : Obligations.ResAndRtiAbort := fun _ => ⟨rfl, rfl⟩

/-- Settles O36: the three branches of `step` on `run`; in the running one every meaning and every resumed read answers
a next state. -/
theorem noStepAfterTheEnd : Obligations.NoStepAfterTheEnd := by
  intro s
  refine ⟨fun halted => by simp [step, halted], fun c aborted => by simp [step, aborted], fun running => ?_⟩
  cases wait : s.wait with
  | none =>
    rw [step_of_running running wait]
    exact exec_next _ _
  | some r => simpa [step, running, wait] using resumeRead_next r s

/-- Settles O39: `cancel` by its three branches on `run`; no state it leaves is running, and only those step. -/
theorem cancelEndsTheRun : Obligations.CancelEndsTheRun := by
  intro s
  refine ⟨fun running => ?_, fun ended => ?_, fun t next => s.cancel_run_ne (step_cases next).1⟩
  · simp only [State.cancel, running]
    rfl
  · unfold State.cancel
    split
    · next running => exact absurd running ended
    · rfl
    · rfl

end Sys2Proof.Proofs
end

section
/-!
PROOFS, 41_control.md: BR and JSRR.
-/
namespace Sys2Proof.Machine

/-- The bit of BR's mask that stands for a flag: n, z or p. -/
def maskBit (n z p : Bool) : Flag → Bool
  | .negative => n
  | .zero => z
  | .positive => p

/-- The eight masks against the three flag values (D3). -/
theorem branchTaken_code (n z p : Bool) (f : Flag) :
    branchTaken (BitVec.ofBool n ++ BitVec.ofBool z ++ BitVec.ofBool p) f.code = maskBit n z p f := by
  revert n z p
  cases f <;> decide

/-- R146: the base is read after the link. -/
theorem exec_jsrr (baseR : RegIdx) (s : State) :
    exec (.jsrr baseR) s = .next ((s.setX R7 s.pc).setPc ((s.setX R7 s.pc).x baseR)) := rfl

end Sys2Proof.Machine

namespace Sys2Proof.Proofs
open Sys2Proof.Machine Sys2Proof.Machine.State

/-- Settles O7: BR is one `setPc`, decided by `branchTaken`, which `branchTaken_iff` reads as a shared set bit. -/
theorem brBranchesIffMaskMeetsCc : Obligations.BrBranchesIffMaskMeetsCc := by
  intro cond offset9 s
  refine ⟨_, exec_br cond offset9 s, fun meets => ?_, fun apart => ?_, rfl⟩
  · rw [setPc_pc, if_pos ((branchTaken_iff _ _).2 meets)]
  · rw [setPc_pc, if_neg (mt (branchTaken_iff _ _).1 apart)]

/-- Settles O8: BR's decision on the value of a flag is the mask bit of that flag. -/
theorem brMaskBitsTestTheirFlags : Obligations.BrMaskBitsTestTheirFlags := by
  intro n z p offset9 s f flag
  refine ⟨_, exec_br _ offset9 s, ?_⟩
  rw [setPc_pc, flag, branchTaken_code]
  cases f <;> rfl

/-- Settles O11: the link, then pc from the base, which is the old one unless it is R7, just written. -/
theorem jsrrLinksThenReadsBase : Obligations.JsrrLinksThenReadsBase := by
  intro baseR s
  refine ⟨_, exec_jsrr baseR s, s.setX_x_same R7 s.pc, fun other => ?_, fun same => ?_,
    setX_R7_setPc_onlyLinkAndPc s _ _⟩
  · exact s.setX_x_ne R7 baseR s.pc other
  · rw [same, setPc_pc, setX_x_same]

end Sys2Proof.Proofs
end

section
/-!
PROOFS, 30_encoding.md section 8: the datapath under the control word of each row of R102.
-/
namespace Sys2Proof.Machine

/-- R102, the rows that define a result: the register write, pc held, the flags. -/
theorem resultPass_eq (u : State) (dr : RegIdx) (v : Word) :
    ((u.setX dr v).setPc (u.setX dr v).pc).setcc dr = u.setXcc dr v := rfl

end Sys2Proof.Machine

namespace Sys2Proof.Proofs
open Sys2Proof.Machine Sys2Proof.Machine.State

/-- Settles O48: row by row. BR's selection is its test; the loads are a result pass on the state and the word that the
reads left; in every other row the pass, with pc held or selected, is the meaning's own composition of updates. -/
theorem datapathAgreesWithExec : Obligations.DatapathAgreesWithExec := by
  intro i s
  cases i with
  | br cond offset9 =>
    rw [exec_br, ← sext_eq_signExtend (by decide) (by decide)]
    rfl
  | ld | ldr | ldi =>
    simp only [exec, execLd, execLdr, execLdi, loadFrom, afterDatapath, datapath, controlWord, adderResult, memAccess,
      nextPc, writeData]
    exact congrArg _ (resultPass_eq _ _ _).symm
  | sti =>
    simp only [exec, execSti, afterDatapath, datapath, controlWord, adderResult, memAccess, nextPc]
    rfl
  | _ => rfl

end Sys2Proof.Proofs
end

section
/-!
PROOFS, 43_trap.md: the strings of PUTS and PUTSP, the byte that GETC and IN take, and their blocked read.
-/
namespace Sys2Proof.Machine

/-! ### Characters -/

theorem lowByte_eq_setWidth (w : Word) : w.extractLsb' 0 8 = w.setWidth 8 := by
  rw [BitVec.setWidth_eq_extractLsb' (by decide)]

theorem highByte_eq_setWidth (w : Word) : w.extractLsb' 8 8 = (w >>> 8).setWidth 8 := by
  ext i hi
  simp

/-- R193: PUTS's characters of a string. -/
theorem map_char_flatMap_putsChars (ws : List Word) :
    (ws.flatMap putsChars).map OutEvent.char = ws.map fun (w : Word) => .char (w.setWidth 8) := by
  have single : putsChars = fun w => [w.setWidth 8] := funext fun w => by rw [putsChars, lowByte_eq_setWidth]
  rw [single, List.map_flatMap]
  exact List.flatMap_pure_eq_map ..

/-- R195: PUTSP's characters of a word: the high byte is zero exactly if the word is below 256. -/
theorem putspChars_eq_ite :
    putspChars = fun (w : Word) =>
      if w.toNat < 256 then [w.setWidth 8] else [w.setWidth 8, (w >>> 8).setWidth 8] := by
  funext w
  have high : w.extractLsb' 8 8 = 0 ↔ w.toNat < 256 := by
    rw [← BitVec.toNat_inj, BitVec.extractLsb'_toNat, Nat.shiftRight_eq_div_pow]
    have bound := w.isLt
    change w.toNat / 2 ^ 8 % 2 ^ 8 = 0 ↔ _
    omega
  rw [putspChars, lowByte_eq_setWidth, ← highByte_eq_setWidth]
  by_cases small : w.toNat < 256
  · rw [if_pos small, if_pos (high.2 small)]
  · rw [if_neg small, if_neg (mt high.1 small)]

theorem toNat_zext16 (c : Byte) : (zext16 c).toNat = c.toNat :=
  BitVec.toNat_setWidth_of_le (by decide)

/-- R191, R194: a byte zero-extended is never negative. -/
theorem ccOf_zext16 (c : Byte) : (c = 0 → ccOf (zext16 c) = FL_Z) ∧ (c ≠ 0 → ccOf (zext16 c) = FL_P) := by
  obtain ⟨-, zero, positive⟩ := flagsTell_ccOf (zext16 c)
  rw [toNat_zext16] at zero positive
  refine ⟨fun h => zero (by rw [h]; rfl), fun h => positive ⟨?_, ?_⟩⟩
  · exact Nat.pos_of_ne_zero fun e => h (BitVec.eq_of_toNat_eq e)
  · exact c.isLt.trans (by decide)

/-! ### GETC and IN, by what waits in the input -/

namespace State
variable (s : State)

theorem getc_of_cons {c : Byte} {rest : List Byte} (h : s.input = c :: rest) :
    s.getc = (s.setInput rest).setXcc R0 (zext16 c) := by
  simp only [getc, s.readChar_of_cons h]

theorem getc_of_nil (h : s.input = []) : s.getc = s.block .getc := by
  simp only [getc, s.readChar_of_nil h]

theorem inRead_of_cons {c : Byte} {rest : List Byte} (h : s.input = c :: rest) :
    s.inRead = (((s.setInput rest).emit [c]).flush).setXcc R0 (zext16 c) := by
  simp only [inRead, s.readChar_of_cons h]

theorem inRead_of_nil (h : s.input = []) : s.inRead = s.block .trapIn := by
  simp only [inRead, s.readChar_of_nil h]

theorem unblock_of_wait_none (h : s.wait = none) : s.unblock = s := by
  rw [unblock, ← h]

end State

section
variable {rs : List RegIdx} {s t : State}

/-- R232: the fatal path keeps the frame of a TRAP. -/
theorem TrapFrame.raise (h : TrapFrame rs s t) (cause : Cause) : TrapFrame rs s (t.raise cause) := h

/-- R241: consuming input keeps the frame of a TRAP. -/
theorem TrapFrame.setInput (h : TrapFrame rs s t) (rest : List Byte) : TrapFrame rs s (t.setInput rest) := h

/-- R191, R194: the result in R0 adds R0 to the frame of a TRAP. -/
theorem TrapFrame.setXcc_R0 (h : TrapFrame [] s t) (v : Word) : TrapFrame [R0] s (t.setXcc R0 v) := by
  obtain ⟨link, regs, pc, mem, params⟩ := h
  refine ⟨(t.setXcc_x_ne R0 R7 v State.R7_ne_R0).trans link, fun r hr => ?_, pc, mem, params⟩
  simp only [List.mem_cons, List.not_mem_nil, or_false, not_or] at hr
  obtain ⟨h7, h0⟩ := hr
  exact (t.setXcc_x_ne R0 r v h0).trans (regs r (by simpa using h7))

end

section
variable (s : State)

theorem exec_trapGetc : exec .trapGetc s = .next s.trapEntry.getc := rfl

theorem exec_trapIn : exec .trapIn s = .next (s.trapEntry.emit s.params.inPrompt).inRead := rfl

theorem exec_trapPuts : exec .trapPuts s = .next (s.trapEntry.putString putsChars) := rfl

theorem exec_trapPutsp : exec .trapPutsp s = .next (s.trapEntry.putString putspChars) := rfl

theorem exec_trapUndefined (v : BitVec 8) : exec (.trapUndefined v) s = .next (s.trapEntry.raise .illegalTrap) := rfl

end

section
variable {o : Host.Outcome State Fault Refusal} {s : State} {chars : Word → List Byte}

/-- R193, R195: what an outcome that is a string routine's says of its next state, on a terminated string. -/
theorem written_of_eq_putString {k : Nat} (h : o = .next (s.trapEntry.putString chars))
    (string : StringAt s.mem (s.x R0) k) :
    ∃ t, o = .next t ∧
      t.output = s.output ++ ((stringWords s.mem (s.x R0) k).flatMap chars).map .char ++ [.flush] ∧ t.cc = s.cc ∧
      TrapFrame [] s t ∧ SameControl s t ∧ SameInput s t := by
  rw [s.trapEntry.putString_of_string chars (k := k) (by simpa using string), s.trapEntry_x_R0, s.trapEntry_mem] at h
  exact ⟨_, h, rfl, rfl, ((trapFrame_trapEntry s).emit _).flush, ⟨rfl, rfl, rfl⟩, ⟨rfl, rfl, rfl⟩⟩

/-- R234: the same where no zero word follows. -/
theorem overrun_of_eq_putString (h : o = .next (s.trapEntry.putString chars))
    (unended : NoStringAt s.mem (s.x R0)) :
    ∃ t, o = .next t ∧ t.run = .aborted .stringOverrun ∧
      t.output = s.output ++
        ((stringWords s.mem (s.x R0) (65536 - (s.x R0).toNat)).flatMap chars).map .char ∧
      t.cc = s.cc ∧ t.wait = s.wait ∧ TrapFrame [] s t ∧ SameInput s t := by
  rw [s.trapEntry.putString_of_no_string chars (by simpa using unended), s.trapEntry_x_R0, s.trapEntry_mem] at h
  exact ⟨_, h, rfl, rfl, rfl, rfl, ((trapFrame_trapEntry s).emit _).raise _, ⟨rfl, rfl, rfl⟩⟩

/-- R191, R194: what an outcome that ends in the byte's result says of its next state, from the state before that. -/
theorem byteRead_of_eq_setXcc {u : State} {c : Byte} (h : o = .next (u.setXcc R0 (zext16 c)))
    (frame : TrapFrame [] s u) (control : SameControl s u) :
    ∃ t, o = .next t ∧ (t.x R0).toNat = c.toNat ∧ (c = 0 → t.cc = FL_Z) ∧ (c ≠ 0 → t.cc = FL_P) ∧
      t.input = u.input ∧ t.output = u.output ∧ TrapFrame [R0] s t ∧ SameControl s t ∧
      t.keyAnswers = u.keyAnswers ∧ t.polls = u.polls := by
  obtain ⟨zero, positive⟩ := ccOf_zext16 c
  rw [← u.setXcc_cc R0] at zero positive
  have r0 : ((u.setXcc R0 (zext16 c)).x R0).toNat = c.toNat := by rw [State.setXcc_x_same, toNat_zext16]
  exact ⟨_, h, r0, zero, positive, rfl, rfl, frame.setXcc_R0 _, control, rfl, rfl⟩

end

/-! ### The blocked read (R241) -/

section
variable {u : State} (running : u.run = .running) (unblocked : u.wait = none)
include running unblocked

/-- A step with GETC blocked runs GETC's read in the state it was blocked in. -/
theorem step_block_getc : step (u.block .getc) = .next u.getc := by
  have state : (u.block .getc).unblock = u := u.unblock_of_wait_none unblocked
  simp only [step, State.block_run, State.block_wait, running, resumeRead, state]

/-- A step with IN blocked runs IN's read in the state it was blocked in. -/
theorem step_block_trapIn : step (u.block .trapIn) = .next u.inRead := by
  have state : (u.block .trapIn).unblock = u := u.unblock_of_wait_none unblocked
  simp only [step, State.block_run, State.block_wait, running, resumeRead, state]

end

end Sys2Proof.Machine

namespace Sys2Proof.Proofs
open Sys2Proof.Machine Sys2Proof.Machine.State

/-- Settles O28: PUTS is `putString` of the low bytes, on a terminated string. -/
theorem putsWritesTheString : Obligations.PutsWritesTheString := by
  intro s k string
  rw [← map_char_flatMap_putsChars]
  exact written_of_eq_putString (exec_trapPuts s) string

/-- Settles O29: PUTSP is `putString` of the packed bytes, on a terminated string. -/
theorem putspWritesThePackedString : Obligations.PutspWritesThePackedString := by
  intro s k string
  rw [← putspChars_eq_ite]
  exact written_of_eq_putString (exec_trapPutsp s) string

/-- Settles O30: both are `putString`, where no zero word follows. -/
theorem stringOverrunAborts : Obligations.StringOverrunAborts := by
  intro s unended
  rw [← map_char_flatMap_putsChars, ← putspChars_eq_ite]
  exact ⟨overrun_of_eq_putString (exec_trapPuts s) unended, overrun_of_eq_putString (exec_trapPutsp s) unended⟩

/-- Settles O26: with a byte waiting, GETC takes it and ends in the byte's result. -/
theorem getcReadsOneByte : Obligations.GetcReadsOneByte := by
  intro s c rest waiting
  have next := exec_trapGetc s
  rw [s.trapEntry.getc_of_cons waiting] at next
  exact byteRead_of_eq_setXcc next ((trapFrame_trapEntry s).setInput rest) ⟨rfl, rfl, rfl⟩

/-- Settles O31: IN writes the prompt, takes the waiting byte, echoes it and ends in the byte's result. -/
theorem inPromptsReadsAndEchoes : Obligations.InPromptsReadsAndEchoes := by
  intro s c rest waiting
  have next := exec_trapIn s
  rw [(s.trapEntry.emit s.params.inPrompt).inRead_of_cons waiting] at next
  obtain ⟨t, next, r0, zero, positive, input, output, frame, same⟩ :=
    byteRead_of_eq_setXcc next ((((trapFrame_trapEntry s).emit _).setInput rest).emit [c]).flush ⟨rfl, rfl, rfl⟩
  exact ⟨t, next, r0, zero, positive, input, by simp [output], frame, same⟩

/-- Settles O33: the link, then `raise`, for every vector of the row. -/
theorem undefinedVectorAborts : Obligations.UndefinedVectorAborts :=
  fun v s => ⟨_, exec_trapUndefined s v, rfl, rfl, rfl, rfl, (trapFrame_trapEntry s).raise _, ⟨rfl, rfl, rfl⟩⟩

/-- Settles O34: on the empty stream the read blocks in the state before it. A step of the blocked state runs the read
again there: without input it blocks again, and with input it does what it does in the instruction itself, since
supplying input commutes with the link and the prompt. -/
theorem blockedReadCompletesWhenInputArrives : Obligations.BlockedReadCompletesWhenInputArrives := by
  intro i s c rest reading running unblocked empty
  rcases reading with rfl | rfl
  · have next := exec_trapGetc s
    have blocks := s.trapEntry.getc_of_nil empty
    rw [blocks] at next
    refine ⟨_, next, by simp, running, rfl, s.trapEntry_x_R0, s.trapEntry_x_R7, rfl, ?_, ?_⟩
    · rw [step_block_getc (by simpa using running) (by simpa using unblocked), blocks]
    · exact step_block_getc (u := (s.supplyInput (c :: rest)).trapEntry) running unblocked
  · have next := exec_trapIn s
    have blocks := (s.trapEntry.emit s.params.inPrompt).inRead_of_nil empty
    rw [blocks] at next
    refine ⟨_, next, by simp, running, rfl, s.trapEntry_x_R0, s.trapEntry_x_R7, rfl, ?_, ?_⟩
    · rw [step_block_trapIn (by simpa using running) (by simpa using unblocked), blocks]
    · exact step_block_trapIn (u := (s.supplyInput (c :: rest)).trapEntry.emit s.params.inPrompt) running unblocked

end Sys2Proof.Proofs
end

section
/-!
PROOFS, 20_memory.md and 70_reset_and_hazards.md: the keyboard poll and the reads and fetches that make it, stores that
are fetched, and the loader.
-/
namespace Sys2Proof.Machine

/-! ### The poll (R53), by the host's answer -/

/-- R5: legal parameters have distinct keyboard addresses. -/
theorem kbsrAddr_ne_kbdrAddr {p : Config.Params} (h : p.legal = true) : p.kbsrAddr ≠ p.kbdrAddr := by
  simpa [Config.Params.legal] using h

namespace State
variable (s : State)

/-- R240: with a byte waiting a scripted answer is the answer. -/
theorem keyReady_of_scripted {b : Bool} {bs : List Bool} (waiting : s.input ≠ []) (script : s.keyAnswers = b :: bs) :
    s.keyReady = b := by
  simp [keyReady, script, waiting]

theorem pollKeyboard_of_ready {c : Byte} {rest : List Byte} (ready : s.keyReady = true) (input : s.input = c :: rest) :
    s.pollKeyboard =
      { s with
        mem := (s.mem.write s.params.kbsrAddr kbsrReady).write s.params.kbdrAddr (zext16 c)
        input := rest
        keyAnswers := s.keyAnswers.tail
        polls := s.polls + 1 } := by
  rcases s.pollKeyboard_cases with ⟨-, c', rest', input', h⟩ | ⟨notReady, -⟩
  · obtain ⟨rfl, rfl⟩ : c = c' ∧ rest = rest' := by simpa [input] using input'
    exact h
  · simp [ready] at notReady

theorem pollKeyboard_of_not_ready (notReady : s.keyReady = false) :
    s.pollKeyboard =
      { s with
        mem := s.mem.write s.params.kbsrAddr kbsrNotReady
        keyAnswers := s.keyAnswers.tail
        polls := s.polls + 1 } := by
  rcases s.pollKeyboard_cases with ⟨ready, -⟩ | ⟨-, h⟩
  · simp [notReady] at ready
  · exact h

section
variable {s} (wf : s.mem.wf = true) (legal : s.params.legal = true)
include wf

theorem pollKeyboard_kbsr_of_not_ready (notReady : s.keyReady = false) :
    s.pollKeyboard.mem.read s.params.kbsrAddr = 0x0000 := by
  rw [pollKeyboard_of_not_ready s notReady]
  exact Memory.read_write_same wf _ _

theorem pollKeyboard_kbdr_of_ready {c : Byte} {rest : List Byte} (ready : s.keyReady = true)
    (input : s.input = c :: rest) : s.pollKeyboard.mem.read s.params.kbdrAddr = zext16 c := by
  rw [pollKeyboard_of_ready s ready input]
  exact Memory.read_write_same (Memory.wf_write wf _ _) _ _

include legal

theorem pollKeyboard_kbsr_of_ready (ready : s.keyReady = true) :
    s.pollKeyboard.mem.read s.params.kbsrAddr = 0x8000 := by
  obtain ⟨c, rest, input⟩ := s.keyReady_input ready
  rw [pollKeyboard_of_ready s ready input, Memory.read_write_ne _ (kbsrAddr_ne_kbdrAddr legal)]
  exact Memory.read_write_same wf _ _

end

end State

/-! ### What a fetch from `KBSR_ADDR` runs (R56) -/

theorem decode_kbsrReady : decode 0x8000 = .rti := by decide

theorem decode_kbsrNotReady : decode 0x0000 = .br 0 0 := by decide

theorem exec_rti (s : State) : exec .rti s = .next (s.raise .illegalOpcode) := rfl

/-- R142: BR with a zero mask does nothing. -/
theorem exec_br_zero_mask (offset9 : BitVec 9) (s : State) : exec (.br 0 offset9) s = .next s := by
  have untaken : branchTaken 0 s.cc = false := by simp [branchTaken]
  rw [exec_br, untaken]; rfl

end Sys2Proof.Machine

namespace Sys2Proof.Proofs
open Sys2Proof.Machine Sys2Proof.Machine.State

/-- Settles O19: a read of another address makes no poll. -/
theorem otherReadsArePlain : Obligations.OtherReadsArePlain := fun s _ away => s.memRead_of_ne away

/-- Settles O21: an answer true needs a byte; a scripted answer is given where one waits. -/
theorem keyAvailableNeedsInputAndAdmitsBoth : Obligations.KeyAvailableNeedsInputAndAdmitsBoth := by
  refine ⟨fun s ready empty => ?_, fun s b bs waiting script => s.keyReady_of_scripted waiting script⟩
  obtain ⟨c, rest, input⟩ := s.keyReady_input ready
  simp [empty] at input

/-- Settles O20: the read is the poll and then the word it wrote; the poll by the two answers. -/
theorem statusReadPollsTheKeyboard : Obligations.StatusReadPollsTheKeyboard := by
  intro s t v wf legal read
  obtain ⟨rfl, rfl⟩ : s.pollKeyboard.mem.read s.params.kbsrAddr = v ∧ s.pollKeyboard = t := by
    simpa [memRead] using read
  refine ⟨fun ready => ?_, fun notReady => ?_, fun b hb => ?_, fun r _ => s.pollKeyboard_x r, s.pollKeyboard_pc,
    s.pollKeyboard_cc, s.pollKeyboard_output, s.pollKeyboard_run, s.pollKeyboard_wait, s.pollKeyboard_params⟩
  · obtain ⟨c, rest, input⟩ := s.keyReady_input ready
    have kbsr := pollKeyboard_kbsr_of_ready wf legal ready
    refine ⟨c, rest, input, by rw [s.pollKeyboard_of_ready ready input], kbsr, kbsr, ?_⟩
    rw [pollKeyboard_kbdr_of_ready wf ready input, toNat_zext16]
  · have kbsr := pollKeyboard_kbsr_of_not_ready wf notReady
    refine ⟨by rw [s.pollKeyboard_of_not_ready notReady], kbsr, kbsr, ?_⟩
    rw [s.pollKeyboard_of_not_ready notReady]
    exact Memory.read_write_ne _ (kbsrAddr_ne_kbdrAddr legal).symm _
  · simp only [List.mem_cons, List.not_mem_nil, or_false, not_or] at hb
    exact s.pollKeyboard_mem_ne hb.1 hb.2

/-- Settles O22: both reads poll and both are answered true; the second poll starts from the input the first left. -/
theorem secondStatusReadOverwritesKbdr : Obligations.SecondStatusReadOverwritesKbdr := by
  intro s c1 c2 rest bs wf legal input script
  have first := s.pollKeyboard_of_ready (s.keyReady_of_scripted (by simp [input]) script) input
  have input' : s.pollKeyboard.input = c2 :: rest := by rw [first]
  have script' : s.pollKeyboard.keyAnswers = true :: bs := by rw [first, script]; rfl
  have ready' := s.pollKeyboard.keyReady_of_scripted (by simp [input']) script'
  have second := s.pollKeyboard.pollKeyboard_of_ready ready' input'
  have polls : ((s.memRead s.params.kbsrAddr).2.memRead s.params.kbsrAddr).2 = s.pollKeyboard.pollKeyboard := by
    rw [memRead_snd, memRead_snd, afterRead_kbsr, ← s.pollKeyboard_params, afterRead_kbsr]
  have kbdr := pollKeyboard_kbdr_of_ready (s.pollKeyboard_wf wf) ready' input'
  rw [pollKeyboard_params] at kbdr
  intro u
  rw [show u = _ from polls]
  exact ⟨by rw [second], by rw [kbdr, toNat_zext16], by rw [second, script']; rfl⟩

/-- Settles O23: the poll leaves the second byte as the next one of the input, which GETC takes; GETC leaves KBDR. -/
theorem getcTakesTheByteAfterTheOneInKbdr : Obligations.GetcTakesTheByteAfterTheOneInKbdr := by
  intro s c1 c2 rest bs wf legal input script
  have ready := s.keyReady_of_scripted (by simp [input]) script
  have later : s.pollKeyboard.input = c2 :: rest := by rw [s.pollKeyboard_of_ready ready input]
  have next := exec_trapGetc s.pollKeyboard
  rw [s.pollKeyboard.trapEntry.getc_of_cons later] at next
  refine ⟨_, by rw [memRead_snd, afterRead_kbsr]; exact next, ?_, ?_, rfl⟩
  · rw [setXcc_x_same, toNat_zext16]
  · rw [setXcc_mem, setInput_mem, trapEntry_mem, pollKeyboard_kbdr_of_ready wf ready input, toNat_zext16]

/-- Settles O24: away from `KBSR_ADDR` a fetch is a plain read, of the word just written. -/
theorem fetchSeesTheStoredWord : Obligations.FetchSeesTheStoredWord := by
  intro sr offset9 s wf away
  refine ⟨_, exec_st sr offset9 s, ?_⟩
  rw [fetch_of_ne _ away]
  exact Memory.read_write_same wf _ _

/-- Settles O41: the fetch polls and reads the word it wrote: 0x8000, which is RTI, or 0x0000, which is BR with a zero
mask. -/
theorem fetchAtKbsrExecutesThePoll : Obligations.FetchAtKbsrExecutesThePoll := by
  intro s running unblocked atKbsr wf legal
  rw [step_of_running running unblocked, s.fetch_of_kbsr atKbsr, atKbsr]
  cases ready : s.keyReady with
  | true =>
    rw [pollKeyboard_kbsr_of_ready wf legal ready, decode_kbsrReady]
    obtain ⟨c, rest, input⟩ := s.keyReady_input ready
    have consumed : s.pollKeyboard.input = rest := by rw [s.pollKeyboard_of_ready ready input]
    exact ⟨_, exec_rti _, rfl, fun r _ => s.pollKeyboard_x r, s.pollKeyboard_cc,
      fun _ => ⟨rfl, c, by rw [input, ← consumed]; rfl⟩, nofun⟩
  | false =>
    rw [pollKeyboard_kbsr_of_not_ready wf ready, decode_kbsrNotReady]
    have kept : s.pollKeyboard.input = s.input := by rw [s.pollKeyboard_of_not_ready ready]
    exact ⟨_, exec_br_zero_mask .., rfl, fun r _ => s.pollKeyboard_x r, s.pollKeyboard_cc, nofun,
      fun _ => ⟨s.pollKeyboard_run.trans running, kept, pollKeyboard_kbsr_of_not_ready wf ready⟩⟩

/-- Settles O55: the placed word reads back, so it is what the fetch away from `KBSR_ADDR` gives. -/
theorem withFetchWordRunsThatWord : Obligations.WithFetchWordRunsThatWord := by
  intro s w wf away
  have word : BitVec.ofNat 16 (w.toNat % 2 ^ 16) = w := by
    rw [Nat.mod_eq_of_lt w.isLt, BitVec.ofNat_toNat, BitVec.setWidth_eq]
  have placed : s.withFetchWord 16 w.toNat = { s.memWrite s.pc w with run := .running, wait := none } := by
    rw [withFetchWord, word]
  have read : (s.withFetchWord 16 w.toNat).memRead s.pc = (w, s.withFetchWord 16 w.toNat) := by
    rw [memRead_of_ne _ (by rw [placed]; exact away), placed]
    exact congrArg (·, _) (Memory.read_write_same wf _ _)
  rw [placed] at read ⊢
  exact step_of_memRead rfl rfl read

end Sys2Proof.Proofs
end

section
/-!
PROOFS, 10_state.md section 3: no meaning but BR's depends on the condition code. Every operation that the meanings are
made of commutes with a write of it, or writes it itself.
-/
namespace Sys2Proof.Machine

namespace State
variable (s : State) (c : Word)

theorem pollKeyboard_writeCc : (s.writeCc c).pollKeyboard = s.pollKeyboard.writeCc c := by
  rcases s.pollKeyboard_cases with ⟨ready, b, rest, input, h⟩ | ⟨notReady, h⟩
  · rw [h, (s.writeCc c).pollKeyboard_of_ready ready input]; rfl
  · rw [h, (s.writeCc c).pollKeyboard_of_not_ready notReady]; rfl

theorem afterRead_writeCc (a : Word) : (s.writeCc c).afterRead a = (s.afterRead a).writeCc c := by
  unfold afterRead
  rw [writeCc_params, pollKeyboard_writeCc]
  split <;> rfl

theorem memRead_writeCc (a : Word) : (s.writeCc c).memRead a = ((s.memRead a).1, (s.memRead a).2.writeCc c) := by
  unfold memRead
  rw [afterRead_writeCc]; rfl

/-- A load writes the flags itself. -/
theorem loadFrom_writeCc (dr : RegIdx) (ea : Word) : (s.writeCc c).loadFrom dr ea = s.loadFrom dr ea := by
  rw [loadFrom_eq, loadFrom_eq, afterRead_writeCc]; rfl

theorem putString_writeCc (chars : Word → List Byte) :
    (s.writeCc c).putString chars = (s.putString chars).writeCc c := by
  have scan : (s.writeCc c).scanR0 chars = s.scanR0 chars := rfl
  unfold putString
  rw [scan]
  split <;> rfl

/-- GETC writes the flags itself, or blocks. -/
theorem getc_writeCc : ∃ c', (s.writeCc c).getc = s.getc.writeCc c' := by
  rcases s.getc_cases with ⟨b, rest, input, h⟩ | ⟨input, h⟩
  · exact ⟨_, by rw [h, (s.writeCc c).getc_of_cons input]; rfl⟩
  · exact ⟨c, by rw [h, (s.writeCc c).getc_of_nil input]; rfl⟩

/-- IN writes the flags itself, or blocks. -/
theorem inRead_writeCc : ∃ c', (s.writeCc c).inRead = s.inRead.writeCc c' := by
  rcases s.inRead_cases with ⟨b, rest, input, h⟩ | ⟨input, h⟩
  · exact ⟨_, by rw [h, (s.writeCc c).inRead_of_cons input]; rfl⟩
  · exact ⟨c, by rw [h, (s.writeCc c).inRead_of_nil input]; rfl⟩

end State

/-- R30: apart from BR, another condition code makes no difference but in the condition code. -/
theorem exec_writeCc {i : Instr} (notBr : ∀ cond o, i ≠ .br cond o) (s : State) (c : Word) :
    ∃ t c', exec i s = .next t ∧ exec i (s.writeCc c) = .next (t.writeCc c') := by
  cases i with
  | br cond o => exact absurd rfl (notBr cond o)
  | ld dr o => exact ⟨_, _, exec_ld .., by rw [exec_ld, State.writeCc_pc, State.loadFrom_writeCc]; rfl⟩
  | ldr dr b o => exact ⟨_, _, exec_ldr .., by rw [exec_ldr, State.writeCc_x, State.loadFrom_writeCc]; rfl⟩
  | ldi dr o =>
    exact ⟨_, _, exec_ldi .., by rw [exec_ldi, State.writeCc_pc, State.memRead_writeCc, State.loadFrom_writeCc]; rfl⟩
  | sti sr o => exact ⟨_, c, exec_sti .., by rw [exec_sti, State.writeCc_pc, State.memRead_writeCc]; rfl⟩
  | trapGetc =>
    obtain ⟨c', h⟩ := s.trapEntry.getc_writeCc c
    exact ⟨_, c', rfl, congrArg _ h⟩
  | trapIn =>
    obtain ⟨c', h⟩ := (s.trapEntry.emit s.params.inPrompt).inRead_writeCc c
    exact ⟨_, c', rfl, congrArg _ h⟩
  | trapPuts => exact ⟨_, c, rfl, congrArg _ (s.trapEntry.putString_writeCc c putsChars)⟩
  | trapPutsp => exact ⟨_, c, rfl, congrArg _ (s.trapEntry.putString_writeCc c putspChars)⟩
  | _ => exact ⟨_, _, rfl, rfl⟩

end Sys2Proof.Machine

namespace Sys2Proof.Proofs
open Sys2Proof.Machine Sys2Proof.Machine.State

/-- Settles O45: `exec_writeCc`; two states that differ in `cc` alone are one and a `writeCc` of it. -/
theorem onlyBrReadsCc : Obligations.OnlyBrReadsCc := fun _ s c notBr => exec_writeCc notBr s c

end Sys2Proof.Proofs
end

section
/-!
PROOFS, 70_reset_and_hazards.md section 1: the image loader.
-/
namespace Sys2Proof.Machine

/-- R262: a word is put together again from its two bytes. -/
theorem highByte_append_lowByte (w : Word) : w.extractLsb' 8 8 ++ w.extractLsb' 0 8 = w := by
  rw [BitVec.extractLsb'_append_extractLsb'_eq_extractLsb' (by rfl)]
  exact extract_all w

/-- R262: the bytes of an image file give its words. -/
theorem bigEndianWords_imageBytes (ws : List Word) : bigEndianWords (imageBytes ws) = some ws := by
  induction ws with
  | nil => rfl
  | cons w ws ih =>
    change (bigEndianWords (imageBytes ws)).map (_ :: ·) = _
    rw [ih, Option.map_some, highByte_append_lowByte]

theorem loadImage_imageBytes (m : Memory) {origin : Word} {ws : List Word} (fits : origin.toNat + ws.length ≤ 65536) :
    loadImage m (imageBytes (origin :: ws)) = some (m.storeFrom origin ws) := by
  simp only [loadImage, bigEndianWords_imageBytes, if_pos fits]

namespace Memory

/-- R55: the stores leave every word that is not one of theirs. -/
theorem read_storeFrom_outside (m : Memory) (a b : Word) (ws : List Word)
    (outside : ∀ j < ws.length, b ≠ a + BitVec.ofNat 16 j) : (m.storeFrom a ws).read b = m.read b := by
  induction ws generalizing m a with
  | nil => rfl
  | cons w ws ih =>
    have first : b ≠ a := by simpa using outside 0 (by simp)
    have later : ∀ j < ws.length, b ≠ a + 1 + BitVec.ofNat 16 j := fun j hj => by
      rw [← add_ofNat_succ]
      exact outside (j + 1) (by simpa using hj)
    rw [storeFrom, ih _ _ later, read_write_ne _ first]

/-- Fewer than 65536 steps further lies another address. -/
theorem ne_add_ofNat (a : Word) {j : Nat} (pos : 0 < j) (hj : j < 65536) : a ≠ a + BitVec.ofNat 16 j := by
  intro h
  bv_omega

/-- R64: each of the stores reads back, no later one having its address. -/
theorem read_storeFrom {m : Memory} (wf : m.wf = true) (a : Word) (ws : List Word) (fits : ws.length ≤ 65536)
    (j : Nat) (hj : j < ws.length) : (m.storeFrom a ws).read (a + BitVec.ofNat 16 j) = ws[j] := by
  induction ws generalizing m a j with
  | nil => simp at hj
  | cons w ws ih =>
    rw [List.length_cons] at fits
    cases j with
    | zero =>
      have outside : ∀ k < ws.length, a ≠ a + 1 + BitVec.ofNat 16 k := fun k hk => by
        rw [← add_ofNat_succ]
        exact ne_add_ofNat a (by omega) (by omega)
      have start : a + BitVec.ofNat 16 0 = a := BitVec.add_zero a
      rw [storeFrom, start, read_storeFrom_outside _ _ _ _ outside]
      exact read_write_same wf a w
    | succ j =>
      rw [add_ofNat_succ]
      exact ih (wf_write wf a w) (a + 1) (by omega) j (by simpa using hj)

end Memory
end Sys2Proof.Machine

namespace Sys2Proof.Proofs
open Sys2Proof.Machine

/-- Settles O54: the bytes give the words, which `storeFrom` stores one after another; a word outside lies at none of
their addresses, since they run from the origin without wrapping. -/
theorem loadedImageIsInMemory : Obligations.LoadedImageIsInMemory := by
  intro m origin ws wf fits
  refine ⟨_, loadImage_imageBytes m fits, Memory.wf_storeFrom wf origin ws,
    Memory.read_storeFrom wf origin ws (by omega), fun a outside => ?_⟩
  refine Memory.read_storeFrom_outside m origin a ws fun j hj h => ?_
  have inside : a.toNat = origin.toNat + j := by
    rw [h, BitVec.toNat_add, BitVec.toNat_ofNat]
    omega
  omega

end Sys2Proof.Proofs
end
